-- ==== Sys2Proof/Word.lean ====
section
/-! DEFINITION. The words of TXCODEC: bytes, register words, the result word, the command word, the device address (00_scope.md R6,
R9, R10), and the number of volts the host layer is handed (43_register_interface.md R192). All bit vectors are unsigned (R10). -/

namespace Sys2Proof

/-- A byte: a frame byte, a register address, the bus-address byte (R6 REGADDR_WIDTH, CRC_WIDTH). -/
abbrev Byte := BitVec 8

/-- A Register Word (R6 WORD_WIDTH). -/
abbrev Word := BitVec 16

/-- The result word RES (R25). -/
abbrev ResWord := BitVec 32

/-- The command word `CMD[34:0]` (R88). -/
abbrev CmdWord := BitVec 35

/-- A 7-bit device address (R6 DEVADDR_WIDTH). -/
abbrev DevAddr := BitVec 7

/-- A floating-point number of volts as the host layer is handed it (R192). The source gives no format (N18), so this is the value and
not its bits: a finite number as a fraction, an infinity, or not a number. DESIGN CHOICE, log 14. -/
inductive Volts where
  /-- `num / den` volts; `Volts.canonical` asks for lowest terms. -/
  | finite (num : Int) (den : Nat)
  | infinite (negative : Bool)
  | notANumber
deriving DecidableEq, Repr

end Sys2Proof
end

