-- ==== Sys2Proof/Config.lean ====
section
/-! DEFINITION. What the source fixes (00_scope.md R6, R7), what it leaves open as named parameters (R8), and the free values of the
transport (60_exceptions.md R221, R225). A constant declared `opaque` has no body: no proof can see its value. -/

namespace Sys2Proof

/-- The thirteen registers of AS-REG the source names (20_memory.md R69). -/
inductive RegName where
  | version | rsocInit | cellVoltage | ite | rsoc | cellTemp | statusBit | apa | alarmRsoc | alarmVoltage | powerMode | profile | thermB
deriving DecidableEq, Repr

/-- The access kinds of R69. -/
inductive Access where
  | readOnly | writeOnly | readWrite
deriving DecidableEq, Repr

/-- The documented access kind of each register (R69). "Not enforced by this driver, only documented" (R70): no meaning reads it. -/
def RegName.access : RegName → Access
  | .version | .cellVoltage | .ite => .readOnly
  | .rsocInit => .writeOnly
  | .rsoc | .cellTemp | .statusBit | .apa | .alarmRsoc | .alarmVoltage | .powerMode | .profile | .thermB => .readWrite

/-- The open parameters of the host layer (R8): "opaque named constants". Nothing says the addresses are distinct (R69). -/
structure HostParams where
  regVersion : Byte
  regRsocInit : Byte
  regCellVoltage : Byte
  regIte : Byte
  regRsoc : Byte
  regCellTemp : Byte
  regStatusBit : Byte
  regApa : Byte
  regAlarmRsoc : Byte
  regAlarmVoltage : Byte
  regPowerMode : Byte
  regProfile : Byte
  regThermB : Byte
  pmOperate : Word
  pmSleep : Word
  tmThermistor : Word
  tmOther : Word
  apaDefault : Word
  /-- The members of APA_PROFILES besides APA_DEFAULT. -/
  apaOthers : List Word
  profileIndices : List Word
deriving DecidableEq, Repr, Inhabited

/-- APA_PROFILES; APA_DEFAULT is a member (R8). -/
def HostParams.apaProfiles (p : HostParams) : List Word := p.apaDefault :: p.apaOthers

/-- The address of a named register (R69). -/
def HostParams.addr (p : HostParams) : RegName → Byte
  | .version => p.regVersion
  | .rsocInit => p.regRsocInit
  | .cellVoltage => p.regCellVoltage
  | .ite => p.regIte
  | .rsoc => p.regRsoc
  | .cellTemp => p.regCellTemp
  | .statusBit => p.regStatusBit
  | .apa => p.regApa
  | .alarmRsoc => p.regAlarmRsoc
  | .alarmVoltage => p.regAlarmVoltage
  | .powerMode => p.regPowerMode
  | .profile => p.regProfile
  | .thermB => p.regThermB

/-- CRC_POLY (R6). -/
def Config.crcPoly : Byte := 0x07

/-- CRC_INIT, the seed (R6). -/
def Config.crcSeed : Byte := 0x00

/-- READ_LEN, the bytes a read transaction requests (R6). -/
def Config.readLen : Nat := 2

/-- RSOC_INIT_SENTINEL (R6). -/
def Config.rsocInitSentinel : Word := 0xAA55

/-- DEV_ADDR of the instance the spec describes (R28, D5); a field of State, so claims over all states hold for every value. Log 2. -/
def Config.instanceDevAddr : DevAddr := 0x0B

/-- BUS_ADDR_BYTE of the instance the spec describes (R29, D5). Log 2. -/
def Config.instanceBusAddrByte : Byte := 0x16

/-- The host layer's parameters at reset: open (R8). Log 13. -/
opaque Config.hostParams : HostParams

/-- What `voltsToWord` gives away from its pinned point: open (R192, D29). Log 14. -/
opaque Config.openVoltsToWord : Volts → Word

/-- The failure flag of the `n`-th transport call: under no law (R221). Log 3. -/
opaque Config.freeFlag : Nat → Bool

/-- The byte the transport returns from the `n`-th call: under no law (R150, R225). Log 3. -/
opaque Config.freeByte : Nat → Byte

/-- Whether a transmission is open after the `n`-th call, if that call did not return or its transaction has a failed call: the
transport's affair (R234, N39, U10). Log 17 and log 30. -/
opaque Config.busOpenAfterFailure : Nat → Bool

/-- Whether the bus is held then. Log 17 and log 30. -/
opaque Config.busHeldAfterFailure : Nat → Bool

/-- How many requested bytes remain then. Log 17 and log 30. -/
opaque Config.bytesLeftAfterFailure : Nat → Nat

/-- Whether the bus is still held once the `n`-th call, a request, is under way: "the transport's affair" (R153, N15). Log 17. -/
opaque Config.busHeldAfterRequest : Nat → Bool

end Sys2Proof
end

