-- ==== Sys2Proof/Machine/Flags.lean ====
section
/-! DEFINITION. The block has no status flag, condition code or predicate (10_state.md R30), so no flag is computed anywhere. Its one
condition is the bit step's test of the running register, which "reads bit 7 of CRC directly and latches nothing". -/

namespace Sys2Proof.Machine

/-- "If the high bit is set" (R30, R111): bit 7, before the shift. -/
def highBit (c : Byte) : Bool := c.getLsbD 7

end Sys2Proof.Machine
end

