-- ==== Sys2Proof/Syntax.lean ====
section
/-! DEFINITION. The operations: one constructor for each row of spec/opcode_table.json. The first five are the block's commands (R90);
the other fifteen are the Register Interface's named operations (R180), which have no encoding of their own (R95). Log 11. -/

namespace Sys2Proof

/-- Operands stand in the order of the spec's syntax (R94, R180). -/
inductive Instr where
  /-- CRC8 (R110): `b0` is absorbed first. -/
  | crc8 (b0 b1 b2 b3 : Byte)
  /-- ENCW (R130). -/
  | encw (reg : Byte) (word : Word)
  /-- DECR (R135): `lo` is the byte received first. -/
  | decr (lo hi : Byte)
  /-- WRREG (R151). -/
  | wrreg (reg : Byte) (word : Word)
  /-- RDREG (R153). -/
  | rdreg (reg : Byte)
  /-- INIT (R181). -/
  | init
  /-- GET_VERSION (R182). -/
  | getVersion
  /-- INIT_RSOC (R183). -/
  | initRsoc
  /-- GET_VOLTAGE (R184). -/
  | getVoltage
  /-- GET_ITE (R185). -/
  | getIte
  /-- GET_RSOC (R186). -/
  | getRsoc
  /-- GET_TEMP (R187). -/
  | getTemp
  /-- SET_TEMP_MODE (R188). Integer operands are 16-bit unsigned already (R191). -/
  | setTempMode (m : Word)
  /-- SET_CAPACITY (R189). -/
  | setCapacity (p : Word)
  /-- SET_ALARM_RSOC (R190). -/
  | setAlarmRsoc (pct : Word)
  /-- SET_ALARM_VOLT (R193): the one operation that transforms its operand. -/
  | setAlarmVolt (v : Volts)
  /-- SET_POWER_MODE (R194). -/
  | setPowerMode (m : Word)
  /-- SET_PROFILE (R195). -/
  | setProfile (i : Word)
  /-- GET_THERM_B (R196). -/
  | getThermB
  /-- SET_THERM_B (R197). -/
  | setThermB (b : Word)
deriving DecidableEq, Repr

/-- The five commands the block itself accepts (R90), as against the host layer's named operations (R95). -/
def Instr.isCommand : Instr → Bool
  | .crc8 _ _ _ _ | .encw _ _ | .decr _ _ | .wrreg _ _ | .rdreg _ => true
  | .init | .getVersion | .initRsoc | .getVoltage | .getIte | .getRsoc | .getTemp | .setTempMode _ | .setCapacity _
  | .setAlarmRsoc _ | .setAlarmVolt _ | .setPowerMode _ | .setProfile _ | .getThermB | .setThermB _ => false

end Sys2Proof
end

