-- ==== Sys2Proof/WellFormed.lean ====
section
/-! DEFINITION. Which operations are well formed. Every operand of bit-vector type is legal at every value, because nothing is
validated (30_encoding.md R93, 43_register_interface.md R191); the one operand with a form to check is the number of volts. Log 25. -/

namespace Sys2Proof

/-- A finite number of volts is written one way: a denominator that is not zero, and lowest terms. So `voltsToWord`, which "depends
on its argument alone" (R192), is handed one term for one number. -/
def Volts.canonical : Volts → Bool
  | .finite num den => den != 0 && Nat.gcd num.natAbs den == 1
  | .infinite _ => true
  | .notANumber => true

/-- The check a step makes before it runs an operation. -/
def Instr.wellFormed : Instr → Bool
  | .setAlarmVolt v => v.canonical
  | .crc8 _ _ _ _ | .encw _ _ | .decr _ _ | .wrreg _ _ | .rdreg _ | .init | .getVersion | .initRsoc | .getVoltage | .getIte
  | .getRsoc | .getTemp | .setTempMode _ | .setCapacity _ | .setAlarmRsoc _ | .setPowerMode _ | .setProfile _ | .getThermB
  | .setThermB _ => true

end Sys2Proof
end

