-- ==== Sys2Proof/Decode.lean ====
section
/-! DEFINITION. The command word (30_encoding.md R88 to R91): the decoder, total on all 2^35 words and rejecting by name; the encoder;
the operation map with its match and mask values; and the expansion of the named operations into commands (43_register_interface.md
R180), whose rows a decoder ignores (R95). -/

namespace Sys2Proof

/-- Why a command word is reserved (R91). -/
inductive Reject where
  /-- `op` is 000, 110 or 111. -/
  | reservedOp
  /-- A must-be-zero bit is set. -/
  | mustBeZero
deriving DecidableEq, Repr

/-- Operation codes (R90). -/
def opCrc8 : BitVec 3 := 0b001
def opEncw : BitVec 3 := 0b010
def opDecr : BitVec 3 := 0b011
def opWrreg : BitVec 3 := 0b100
def opRdreg : BitVec 3 := 0b101

/-- `CMD[34:32]` (R88). -/
def CmdWord.op (w : CmdWord) : BitVec 3 := w.extractLsb' 32 3

/-- `CMD[31:24]`, `CMD[23:16]`, `CMD[15:8]`, `CMD[7:0]` (R89). -/
def CmdWord.byte3 (w : CmdWord) : Byte := w.extractLsb' 24 8
def CmdWord.byte2 (w : CmdWord) : Byte := w.extractLsb' 16 8
def CmdWord.byte1 (w : CmdWord) : Byte := w.extractLsb' 8 8
def CmdWord.byte0 (w : CmdWord) : Byte := w.extractLsb' 0 8

/-- `CMD[15:0]` and `CMD[31:16]` (R89). -/
def CmdWord.low (w : CmdWord) : Word := w.extractLsb' 0 16
def CmdWord.high (w : CmdWord) : Word := w.extractLsb' 16 16

/-- The decoder (R89, R90, R91). -/
def decode (w : CmdWord) : Except Reject Instr :=
  if CmdWord.op w = opCrc8 then .ok (.crc8 (CmdWord.byte3 w) (CmdWord.byte2 w) (CmdWord.byte1 w) (CmdWord.byte0 w))
  else if CmdWord.op w = opEncw then
    if CmdWord.byte3 w = 0 then .ok (.encw (CmdWord.byte2 w) (CmdWord.low w)) else .error .mustBeZero
  else if CmdWord.op w = opDecr then
    if CmdWord.high w = 0 then .ok (.decr (CmdWord.byte0 w) (CmdWord.byte1 w)) else .error .mustBeZero
  else if CmdWord.op w = opWrreg then
    if CmdWord.byte3 w = 0 then .ok (.wrreg (CmdWord.byte2 w) (CmdWord.low w)) else .error .mustBeZero
  else if CmdWord.op w = opRdreg then
    if CmdWord.byte3 w = 0 ∧ CmdWord.low w = 0 then .ok (.rdreg (CmdWord.byte2 w)) else .error .mustBeZero
  else .error .reservedOp

/-- Format B4 (R89). -/
def formatB4 (op : BitVec 3) (b0 b1 b2 b3 : Byte) : CmdWord := op ++ b0 ++ b1 ++ b2 ++ b3

/-- Format RW (R89). -/
def formatRW (op : BitVec 3) (reg : Byte) (word : Word) : CmdWord := op ++ 0#8 ++ reg ++ word

/-- Format R (R89). -/
def formatR (op : BitVec 3) (reg : Byte) : CmdWord := op ++ 0#8 ++ reg ++ 0#16

/-- Format LH (R89): the high byte sits above the low byte. -/
def formatLH (op : BitVec 3) (hi lo : Byte) : CmdWord := op ++ 0#16 ++ hi ++ lo

/-- The word of a command; a named operation has none (R95). -/
def encode : Instr → Option CmdWord
  | .crc8 b0 b1 b2 b3 => some (formatB4 opCrc8 b0 b1 b2 b3)
  | .encw reg word => some (formatRW opEncw reg word)
  | .decr lo hi => some (formatLH opDecr hi lo)
  | .wrreg reg word => some (formatRW opWrreg reg word)
  | .rdreg reg => some (formatR opRdreg reg)
  | .init | .getVersion | .initRsoc | .getVoltage | .getIte | .getRsoc | .getTemp | .setTempMode _ | .setCapacity _
  | .setAlarmRsoc _ | .setAlarmVolt _ | .setPowerMode _ | .setProfile _ | .getThermB | .setThermB _ => none

/-- A row of the operation map (R90). -/
structure MapRow where
  mnemonic : String
  select : CmdWord
  mask : CmdWord
deriving DecidableEq, Repr

/-- The operation map (R90), its five rows as printed. -/
def operationMap : List MapRow :=
  [ ⟨"CRC8", 0x100000000, 0x700000000⟩,
    ⟨"ENCW", 0x200000000, 0x7FF000000⟩,
    ⟨"DECR", 0x300000000, 0x7FFFF0000⟩,
    ⟨"WRREG", 0x400000000, 0x7FF000000⟩,
    ⟨"RDREG", 0x500000000, 0x7FF00FFFF⟩ ]

/-- "A command word `c` selects the row when `c & mask = match`" (R90). -/
def MapRow.selects (r : MapRow) (w : CmdWord) : Bool := w &&& r.mask == r.select

/-- The mnemonic of a command in the operation map (R90); a named operation has no row of its own there. -/
def Instr.mapMnemonic : Instr → Option String
  | .crc8 _ _ _ _ => some "CRC8"
  | .encw _ _ => some "ENCW"
  | .decr _ _ => some "DECR"
  | .wrreg _ _ => some "WRREG"
  | .rdreg _ => some "RDREG"
  | .init | .getVersion | .initRsoc | .getVoltage | .getIte | .getRsoc | .getTemp | .setTempMode _ | .setCapacity _
  | .setAlarmRsoc _ | .setAlarmVolt _ | .setPowerMode _ | .setProfile _ | .getThermB | .setThermB _ => none

/-- `voltsToWord` (R192): open but for its pinned point, 3.7 volts give 3700. Log 14. -/
def voltsToWord : Volts → Word
  | .finite num den =>
    if den ≠ 0 ∧ num * 10 = 37 * den then 3700 else Config.openVoltsToWord (.finite num den)
  | .infinite negative => Config.openVoltsToWord (.infinite negative)
  | .notANumber => Config.openVoltsToWord .notANumber

/-- The commands an operation puts to the block, in order (R180): itself for a command. -/
def expand (p : HostParams) : Instr → List Instr
  | .crc8 b0 b1 b2 b3 => [.crc8 b0 b1 b2 b3]
  | .encw reg word => [.encw reg word]
  | .decr lo hi => [.decr lo hi]
  | .wrreg reg word => [.wrreg reg word]
  | .rdreg reg => [.rdreg reg]
  | .init =>
    [.wrreg p.regPowerMode p.pmOperate, .wrreg p.regApa p.apaDefault, .wrreg p.regStatusBit p.tmThermistor]
  | .getVersion => [.rdreg p.regVersion]
  | .initRsoc => [.wrreg p.regRsocInit Config.rsocInitSentinel]
  | .getVoltage => [.rdreg p.regCellVoltage]
  | .getIte => [.rdreg p.regIte]
  | .getRsoc => [.rdreg p.regRsoc]
  | .getTemp => [.rdreg p.regCellTemp]
  | .setTempMode m => [.wrreg p.regStatusBit m]
  | .setCapacity c => [.wrreg p.regApa c]
  | .setAlarmRsoc pct => [.wrreg p.regAlarmRsoc pct]
  | .setAlarmVolt v => [.wrreg p.regAlarmVoltage (voltsToWord v)]
  | .setPowerMode m => [.wrreg p.regPowerMode m]
  | .setProfile i => [.wrreg p.regProfile i]
  | .getThermB => [.rdreg p.regThermB]
  | .setThermB b => [.wrreg p.regThermB b]

/-- The command word in `nbits` bits numbered as the opcode table numbers them. A command word is one 35-bit word (R88) and is not
stored in bytes, so the bits a whole-byte container adds above bit 34 are not part of it. Log 23. -/
def tableWord (nbits w : Nat) : CmdWord := BitVec.ofNat 35 (w % 2 ^ nbits)

/-- What the decoder reads from a word of the opcode table. -/
def decodeTableWord (nbits w : Nat) : Option Instr :=
  match decode (tableWord nbits w) with
  | .ok i => some i
  | .error _ => none

end Sys2Proof
end

