-- ==== Sys2Proof/Machine/State.lean ====
section
/-! DEFINITION. The state of the machine as plain data (10_state.md R20 to R37), what it can be asked and answer, why it stops, and the
state after reset. -/

namespace Sys2Proof.Machine

/-- The sequencer's phase (R27). -/
inductive Phase where
  /-- No command in progress. -/
  | idle
  /-- Operands latched. -/
  | load
  /-- The checksum computation. -/
  | crc
  /-- The six transport calls of a write. -/
  | wrSend
  /-- Begin, the register address, end without a stop. -/
  | rdAddr
  /-- The request and the two reads. -/
  | rdData
  /-- RES written, completion presented. -/
  | done
deriving DecidableEq, Repr

/-- The checksum frame, registers F[0] to F[4] (R22), with the field letters of R80. -/
structure Frame where
  /-- F[0], the bus-address byte. -/
  a : Byte
  /-- F[1], the register address. -/
  r : Byte
  /-- F[2], the low byte. -/
  l : Byte
  /-- F[3], the high byte. -/
  h : Byte
  /-- F[4], the checksum. -/
  c : Byte
deriving DecidableEq, Repr

/-- The argument of `T.end` (R150). -/
inductive StopBit where
  | stop | nostop
deriving DecidableEq, Repr

/-- A call on the bus transport (R150). -/
inductive Call where
  | begin (a : DevAddr)
  | write (b : Byte)
  | finish (how : StopBit)
  | request (a : DevAddr) (n : Nat)
  | read
deriving DecidableEq, Repr

/-- A returned call in the event history (R33): `Begin(a)`, `Write(b)`, `End(stop)`, `Request(a, n)`, `Read(b)`. -/
inductive Event where
  | begin (a : DevAddr)
  | write (b : Byte)
  | finish (how : StopBit)
  | request (a : DevAddr) (n : Nat)
  | read (b : Byte)
deriving DecidableEq, Repr

/-- An entry of the event history: the event and the failure flag `tf` the transport attached to it (R33, R221). -/
structure Logged where
  event : Event
  tf : Bool
deriving DecidableEq, Repr

/-- How the transport answers one call: it returns, with a failure flag and (used by `T.read()` alone) a byte, or it never returns
(R150, R221, R262). Log 3 and log 6. -/
inductive Answer where
  | returns (tf : Bool) (byte : Byte)
  | never
deriving DecidableEq, Repr

/-- The cells of the stub's register array: register `r` holds its low byte at `2 * r` and its high byte at `2 * r + 1`; addresses
rise strictly and no cell holds 0x00, which is what an unlisted address reads as. Log 19. -/
abbrev Memory := List Host.Cell

/-- The deterministic stub of 95_test_vectors.md section 4 (D30), a named premise about the device and no claim about the real IC. -/
structure Stub where
  /-- STUB_ADDR_BYTE. -/
  addrByte : Byte
  /-- PTR. -/
  ptr : Byte
  /-- The array M. -/
  mem : Memory
  /-- The bytes written since the last `Begin`. -/
  sent : List Byte
  /-- The bytes of the reply not read yet. -/
  reply : List Byte
deriving DecidableEq, Repr

/-- The transport with the IC behind it (R11, R34, R156): the oracle that answers the block's calls. Log 3 and log 18. -/
inductive Oracle where
  /-- Under no law: the answers waiting, as plain data, and after them free values. -/
  | free (answers : List Answer)
  /-- The deterministic stub. -/
  | stub (device : Stub)
deriving DecidableEq, Repr

/-- The transport's own state (R35), which the block cannot read. Log 17. -/
structure Bus where
  /-- A transmission is open, between `T.begin` and `T.end`. -/
  transmitting : Bool
  /-- The bus is held for this block, after `T.end(no-stop)`. -/
  held : Bool
  /-- Requested bytes that remain to be read. -/
  toRead : Nat
  /-- The model's own note that the transaction has a call that failed or did not return, so that the three fields above are free
  values until a next transaction begins (R234, N39, U10). Log 30. -/
  failed : Bool
deriving DecidableEq, Repr

/-- What the world outside presents to the block: a command word (R88), an operation as a term (R88 allows it; the only way to
present a named operation, R95), or the reset input (R250). Log 12. -/
inductive Input where
  | word (w : CmdWord)
  | op (i : Instr)
  | reset
deriving DecidableEq, Repr

/-- What the last named operation gave its caller (R181, R198, R199). Log 15. -/
inductive HostResult where
  | nothing
  | success
  | word (w : Word)
deriving DecidableEq, Repr

/-- Why the machine stops. The block raises no trap (R228); the one reason is the spec's `Stuck(AwaitTransport)`. -/
inductive Fault where
  /-- `Stuck(AwaitTransport)` (R228, R262): raised by `step` when the block waits in a transport call that never returns and no input
  is waiting. Safe: no claim speaks of a later state. Log 6. -/
  | awaitTransport
deriving DecidableEq, Repr

/-- Why an input is given no meaning. -/
inductive Refusal where
  /-- Raised by `exec` for an instruction without a meaning yet; none is left. Safe. -/
  | notModelled (mnemonic : String)
  /-- `Refused(ReservedEncoding)` (R91, R228): raised by `step` on a command word no row of R90 selects. Safe. Log 10. -/
  | reservedEncoding
  /-- `Refused(Busy)` (R228, R260): raised by every meaning when PHASE is not IDLE. Safe. Log 9. -/
  | busy
  /-- Raised by `step` on an operation that is not well formed: its operand denotes no number of volts. Safe. Log 25. -/
  | illFormed
deriving DecidableEq, Repr

structure State where
  /-- DEV_ADDR (R28). -/
  devAddr : DevAddr
  /-- BUS_ADDR_BYTE (R29). -/
  busAddrByte : Byte
  /-- CRC (R21). -/
  crc : Byte
  /-- F[0] to F[4] (R22). -/
  frame : Frame
  /-- RXL (R23). -/
  rxl : Byte
  /-- RXH (R23). -/
  rxh : Byte
  /-- REGA (R24). -/
  rega : Byte
  /-- WORD (R24). -/
  word : Word
  /-- RES (R25). -/
  res : ResWord
  /-- IDX (R26). -/
  idx : BitVec 3
  /-- BITCNT (R26). -/
  bitcnt : BitVec 4
  /-- PHASE (R27). -/
  phase : Phase
  /-- The event history H, oldest first (R33). -/
  history : List Logged
  /-- The result words of the completions presented, oldest first (R88, R228). Log 16. -/
  completions : List ResWord
  /-- The transport call the block is waiting in, if any (R262). Log 6. -/
  awaiting : Option Call
  /-- How many transport calls have been made: the next free value's number. Log 22. -/
  draws : Nat
  /-- The transport and the IC (R34, R156). -/
  oracle : Oracle
  /-- The transport's own state (R35). -/
  bus : Bus
  /-- The inputs waiting, next first (R88, R250). Log 12. -/
  inputs : List Input
  /-- The result of the last named operation (R198, R199). Log 15. -/
  hostResult : HostResult
  /-- The host layer's parameters (R8). Log 13. -/
  host : HostParams
deriving DecidableEq, Repr

/-- The machine right after reset (R37, R250). The spec gives PHASE, H, the constants' instance values and the launch premise that no
transmission is open; every other value is the model's (log 1, 13, 15, 16, 17, 18, 22, 30). -/
def State.reset : State where
  devAddr := Config.instanceDevAddr
  busAddrByte := Config.instanceBusAddrByte
  crc := 0
  frame := ⟨0, 0, 0, 0, 0⟩
  rxl := 0
  rxh := 0
  rega := 0
  word := 0
  res := 0
  idx := 0
  bitcnt := 0
  phase := .idle
  history := []
  completions := []
  awaiting := none
  draws := 0
  oracle := .free []
  bus := ⟨false, false, 0, false⟩
  inputs := []
  hostResult := .nothing
  host := Config.hostParams

end Sys2Proof.Machine
end

