-- ==== Sys2Proof/Machine/Operands.lean ====
section
/-! DEFINITION. Operand and result forms: splitting and assembling a Register Word (30_encoding.md R84, R85), the frames (R80 to R83),
the result layouts (R92). -/

namespace Sys2Proof.Machine

/-- `word[7:0]` (R84). -/
def lowByte (w : Word) : Byte := w.extractLsb' 0 8

/-- `word[15:8]` (R84). -/
def highByte (w : Word) : Byte := w.extractLsb' 8 8

/-- `(zext_16(highByte) << 8) | zext_16(lowByte)` (R85): each byte is widened before the shift. -/
def assembleWord (hi lo : Byte) : Word := (hi.setWidth 16 <<< 8) ||| lo.setWidth 16

/-- The checksum frame before its last byte is known (R80): F[4] keeps what it held. -/
def Frame.filled (f : Frame) (a r l h : Byte) : Frame := ⟨a, r, l, h, f.c⟩

/-- The four bytes the checksum covers, in index order (R82, R119). -/
def Frame.covered (f : Frame) : List Byte := [f.a, f.r, f.l, f.h]

/-- The whole checksum frame (R80). -/
def Frame.bytes (f : Frame) : List Byte := [f.a, f.r, f.l, f.h, f.c]

/-- The wire frame: checksum-frame bytes 1 to 4 (R81). -/
def Frame.wire (f : Frame) : List Byte := [f.r, f.l, f.h, f.c]

/-- RES of CRC8 (R92): the checksum, zero-extended. -/
def resOfByte (c : Byte) : ResWord := c.setWidth 32

/-- RES of ENCW (R92): the four wire bytes, wire byte 0 on top. -/
def resOfWire (f : Frame) : ResWord := f.r ++ f.l ++ f.h ++ f.c

/-- RES of DECR and RDREG (R92): the word, zero-extended. -/
def resOfWord (w : Word) : ResWord := w.setWidth 32

/-- The 16-bit word in RES (R198). -/
def wordOfRes (r : ResWord) : Word := r.extractLsb' 0 16

/-- A byte of RES (R92), byte 3 being `RES[31:24]`. -/
def resByte (r : ResWord) (k : Nat) : Byte := r.extractLsb' (8 * k) 8

/-- The event a call becomes when it returns (R150); `b` is the byte of a `T.read()`. -/
def Call.event (b : Byte) : Call → Event
  | .begin a => .begin a
  | .write x => .write x
  | .finish how => .finish how
  | .request a n => .request a n
  | .read => .read b

end Sys2Proof.Machine
end

