-- ==== Sys2Proof/Machine/Memory.lean ====
section
/-! DEFINITION. The cells of the stub's register array in their one canonical form, and the two accesses wider than a cell: a whole
Register Word, low byte first (20_memory.md R51, R55, R59). Log 19. -/

namespace Sys2Proof.Machine

/-- What an address no cell lists reads as (95_test_vectors.md section 4: a start value chosen by the test). DESIGN CHOICE, log 19. -/
def unlistedByte : Byte := 0

/-- The cells at `lo` and above are in canonical form: addresses below 512 (256 registers of two bytes) rise strictly, and no cell
holds what an unlisted address reads as. -/
def Memory.wfFrom (lo : Nat) : Memory → Bool
  | [] => true
  | (a, b) :: m => lo ≤ a && a < 512 && b != unlistedByte && Memory.wfFrom (a + 1) m

/-- The canonical form. -/
def Memory.wf (m : Memory) : Bool := Memory.wfFrom 0 m

/-- The byte at an address. -/
def Memory.read (a : Nat) : Memory → Byte
  | [] => unlistedByte
  | (x, v) :: m => if a = x then v else Memory.read a m

/-- Put a cell before the rest, unless it holds what an unlisted address reads as. -/
def Memory.cons (a : Nat) (b : Byte) (m : Memory) : Memory := if b = unlistedByte then m else (a, b) :: m

/-- Write the byte at an address, keeping the canonical form. -/
def Memory.write (a : Nat) (b : Byte) : Memory → Memory
  | [] => Memory.cons a b []
  | (x, v) :: m =>
    if a < x then Memory.cons a b ((x, v) :: m)
    else if a = x then Memory.cons a b m
    else (x, v) :: Memory.write a b m

/-- The word of a register of AS-REG (R51). -/
def Memory.readWord (m : Memory) (reg : Byte) : Word :=
  assembleWord (Memory.read (2 * reg.toNat + 1) m) (Memory.read (2 * reg.toNat) m)

/-- Write the word of a register of AS-REG (R51). -/
def Memory.writeWord (m : Memory) (reg : Byte) (w : Word) : Memory :=
  Memory.write (2 * reg.toNat + 1) (highByte w) (Memory.write (2 * reg.toNat) (lowByte w) m)

end Sys2Proof.Machine
end

