-- ==== Sys2Proof/Machine/Device.lean ====
section
/-! DEFINITION. How the transport and the IC behind it answer a call (42_bus_transactions.md R150, R156): under no law, or as the
deterministic stub of 95_test_vectors.md section 4 (D30); and what a call does to the transport's own state (10_state.md R35). -/

namespace Sys2Proof.Machine

/-- The stub takes the bytes of a closed transmission: four of them store a word if the receiver's check of R132 passes, one of them
before a held bus names the register to read. Any other shape changes nothing (log 24). -/
def Stub.close (d : Stub) (how : StopBit) : Stub :=
  match how, d.sent with
  | .stop, [r, l, h, c] =>
    if crc8 [d.addrByte, r, l, h, c] = 0 then { d with mem := d.mem.writeWord r (assembleWord h l), sent := [] }
    else { d with sent := [] }
  | .nostop, [r] => { d with ptr := r, sent := [] }
  | _, _ => { d with sent := [] }

/-- The stub's byte for a call and its state after it. It ignores the device address. A read with nothing requested gives the free
value `spare` (log 24). -/
def Stub.answer (d : Stub) (c : Call) (spare : Byte) : Byte × Stub :=
  match c with
  | .begin _ => (spare, { d with sent := [] })
  | .write b => (spare, { d with sent := d.sent ++ [b] })
  | .finish how => (spare, d.close how)
  | .request _ n =>
    (spare, { d with reply := [lowByte (d.mem.readWord d.ptr), highByte (d.mem.readWord d.ptr)].take n })
  | .read =>
    match d.reply with
    | b :: rest => (b, { d with reply := rest })
    | [] => (spare, d)

/-- The answer to the `n`-th call, and the oracle after it. Under no law the answers waiting come first, in order, and then free
values, which return (the fairness assumption of R262, log 4). The stub never flags a call and never fails to return. -/
def Oracle.answer (o : Oracle) (c : Call) (n : Nat) : Answer × Oracle :=
  match o with
  | .free [] => (.returns (Config.freeFlag n) (Config.freeByte n), .free [])
  | .free (a :: rest) => (a, .free rest)
  | .stub d => (.returns false (d.answer c (Config.freeByte n)).1, .stub (d.answer c (Config.freeByte n)).2)

/-- `T.begin`, the first call of every transaction (R151, R153). -/
def Call.begins : Call → Bool
  | .begin _ => true
  | .write _ | .finish _ | .request _ _ | .read => false

/-- The transport's own state where the spec leaves it open: three free values of the `n`-th call. DESIGN CHOICE, log 30. -/
def Bus.unknown (n : Nat) : Bus :=
  { transmitting := Config.busOpenAfterFailure n
    held := Config.busHeldAfterFailure n
    toRead := Config.bytesLeftAfterFailure n
    failed := true }

/-- The transport's own state after the `n`-th call returned with failure flag `tf` (R35, R150). Once a call of a transaction is flagged
it is unknown, after that call and after every later one of that transaction, the unflagged ones and `T.end(stop)` among them: "must
not assume the bus is released" (N39, R234); a `T.begin` that is not flagged starts the next. Whether a request releases the bus is
a free value too (R153). Log 17 and log 30. -/
def Bus.after (b : Bus) (c : Call) (tf : Bool) (n : Nat) : Bus :=
  if tf || (b.failed && !c.begins) then Bus.unknown n
  else
    match c with
    | .begin _ => { b with transmitting := true, failed := false }
    | .write _ => b
    | .finish .stop => { b with transmitting := false, held := false }
    | .finish .nostop => { b with transmitting := false, held := true }
    | .request _ k => { b with held := Config.busHeldAfterRequest n, toRead := k }
    | .read => { b with toRead := b.toRead - 1 }

end Sys2Proof.Machine
end

