-- ==== Sys2Proof/Machine/Ops.lean ====
section
/-! DEFINITION. The shared operations on the state. A transport call that never returns leaves the block waiting, so an operation that
makes calls answers `Except State State`: `.ok` the state after it, `.error` the state in which the block waits (70_reset_and_hazards.md
R262, log 6). There is no trap, so there is no operation that takes an exception and none that returns from one (60_exceptions.md R232,
R234): a failure is noted with its event and nothing else (R222, `State.call`). -/

namespace Sys2Proof.Machine

/-- Move the sequencer (R27). -/
def State.enter (p : Phase) (s : State) : State := { s with phase := p }

/-- LOAD for CRC8 (R110): the four operands go into F[0] to F[3] (R22). -/
def State.loadBytes (b0 b1 b2 b3 : Byte) (s : State) : State :=
  { s with phase := .load, frame := s.frame.filled b0 b1 b2 b3 }

/-- LOAD for ENCW and WRREG (R24, R130, R151): REGA, WORD and the checksum frame. -/
def State.loadWrite (reg : Byte) (w : Word) (s : State) : State :=
  { s with phase := .load, rega := reg, word := w, frame := s.frame.filled s.busAddrByte reg (lowByte w) (highByte w) }

/-- LOAD for DECR (R135): RXL and RXH. -/
def State.loadReply (lo hi : Byte) (s : State) : State := { s with phase := .load, rxl := lo, rxh := hi }

/-- LOAD for RDREG (R153): REGA. -/
def State.loadRead (reg : Byte) (s : State) : State := { s with phase := .load, rega := reg }

/-- One bit step in register terms (R112): `CRC <- bitstep(CRC); BITCNT <- BITCNT + 1`. -/
def State.bitTick (s : State) : State := { s with crc := bitstep s.crc, bitcnt := s.bitcnt + 1 }

/-- `n` bit steps. -/
def State.bitTicks : Nat → State → State
  | 0, s => s
  | n + 1, s => State.bitTicks n s.bitTick

/-- One byte step in register terms (R112): `CRC <- CRC ^ b; BITCNT <- 0`, eight bit steps, then the next IDX. -/
def State.absorb (s : State) (b : Byte) : State :=
  { State.bitTicks 8 { s with crc := s.crc ^^^ b, bitcnt := 0 } with idx := s.idx + 1 }

/-- The CRC phase in register terms (R27, R113): seed, absorb F[0] to F[3] in index order, `F[4] <- CRC`. -/
def State.checksum (s : State) : State :=
  let t := s.frame.covered.foldl State.absorb { s with phase := .crc, crc := Config.crcSeed, idx := 0 }
  { t with frame := { t.frame with c := t.crc } }

/-- DONE and back to IDLE (R27): RES written, one completion presented (R88). -/
def State.complete (r : ResWord) (s : State) : State :=
  let t := { s.enter .done with res := r, completions := s.completions ++ [r] }
  t.enter .idle

/-- One call on the transport (R150). When it returns, its event is appended to H with the failure flag, which is all that happens of a
failure (R222, R223): the block goes on to the next call either way, with the byte the transport returned. When it does not return the
block waits in it, in the phase it is in (R262); what it does to the transport's own state is open (N39, U10), so that state is unknown
from there on, also after a reset that abandons the command (R251, log 30). -/
def State.call (c : Call) (s : State) : Except State (Byte × State) :=
  let o := (s.oracle.answer c s.draws).2
  match (s.oracle.answer c s.draws).1 with
  | .returns tf b =>
    .ok (b, { s with
      oracle := o
      draws := s.draws + 1
      bus := s.bus.after c tf s.draws
      history := s.history ++ [⟨c.event b, tf⟩] })
  | .never => .error { s with oracle := o, draws := s.draws + 1, bus := Bus.unknown s.draws, awaiting := some c }

/-- A call whose return the block does not use (R150). -/
def State.tell (c : Call) (s : State) : Except State State := do
  let (_, s) ← s.call c
  .ok s

/-- Send a frame byte, IDX naming it (R26). -/
def State.sendByte (i : BitVec 3) (b : Byte) (s : State) : Except State State :=
  State.tell (.write b) { s with idx := i }

/-- The six calls of a write transaction (R151). -/
def State.sendWrite (s : State) : Except State State := do
  let s ← (s.enter .wrSend).tell (.begin s.devAddr)
  let s ← s.sendByte 1 s.frame.r
  let s ← s.sendByte 2 s.frame.l
  let s ← s.sendByte 3 s.frame.h
  let s ← s.sendByte 4 s.frame.c
  s.tell (.finish .stop)

/-- The first three calls of a read transaction (R153): name the register. -/
def State.sendAddress (s : State) : Except State State := do
  let s ← (s.enter .rdAddr).tell (.begin s.devAddr)
  let s ← s.tell (.write s.rega)
  s.tell (.finish .nostop)

/-- The other three (R153): fetch its two bytes, the low byte first. -/
def State.fetchReply (s : State) : Except State State := do
  let s ← (s.enter .rdData).tell (.request s.devAddr Config.readLen)
  let (lo, s) ← s.call .read
  let s := { s with rxl := lo }
  let (hi, s) ← s.call .read
  .ok { s with rxh := hi }

/-- The word in RXH and RXL becomes the result (R135, R153). -/
def State.completeWord (s : State) : State := s.complete (resOfWord (assembleWord s.rxh s.rxl))

/-- The write transaction, `MemWrite(reg, 2, word)` (R151). Once its sixth call has returned it completes: a reset between that return and
DONE (R251) has no run. DESIGN CHOICE, log 8. -/
def State.writeRegister (reg : Byte) (w : Word) (s : State) : Except State State := do
  let s ← (s.loadWrite reg w).checksum.sendWrite
  .ok (s.complete 0)

/-- The read transaction, `MemRead(reg, 2)` (R153). Once its sixth call has returned it completes: a reset between that return and DONE
(R251) has no run. DESIGN CHOICE, log 8. -/
def State.readRegister (reg : Byte) (s : State) : Except State State := do
  let s ← (s.loadRead reg).sendAddress
  let s ← s.fetchReply
  .ok s.completeWord

/-- A write by a named operation: it returns nothing that depends on the bus (R199). -/
def State.hostWrite (reg : Byte) (w : Word) (s : State) : Except State State := do
  let s ← s.writeRegister reg w
  .ok { s with hostResult := .nothing }

/-- A read by a named operation: it returns the word of its RDREG, raw (R198). -/
def State.hostRead (reg : Byte) (s : State) : Except State State := do
  let s ← s.readRegister reg
  .ok { s with hostResult := .word (wordOfRes s.res) }

/-- A command is accepted only in IDLE (R88); presented while busy it is refused (R260). The next state is the one after completion,
or the one in which the block waits (R262). -/
def State.accept (s : State) (run : State → Except State State) : Host.Outcome State Fault Refusal :=
  if s.phase = .idle then
    match run s with
    | .ok t => .next t
    | .error w => .next w
  else .refused .busy

/-- The reset input (R250, R251), taken between commands or in a call that never returns, and at no other moment (DESIGN CHOICE, log 8): PHASE is IDLE, a command in progress is abandoned without a completion, the constants and the events
already made stay, the IC is not touched (R252) and the transport is not (R37), so a bus whose state was unknown stays so (log 30), and every working register is left as `State.reset` has it, since
the spec leaves it without a value (R37). Log 1 and log 8. -/
def State.applyReset (s : State) : State :=
  { s with
    phase := .idle
    awaiting := none
    crc := State.reset.crc
    frame := State.reset.frame
    rxl := State.reset.rxl
    rxh := State.reset.rxh
    rega := State.reset.rega
    word := State.reset.word
    res := State.reset.res
    idx := State.reset.idx
    bitcnt := State.reset.bitcnt }

end Sys2Proof.Machine
end

