-- ==== Sys2Proof/Machine/Codec.lean ====
section
/-! DEFINITION. The three commands that make no transport call: CRC8 (40_crc8.md R110), ENCW and DECR (41_frame_codec.md R130, R135). -/

namespace Sys2Proof.Machine

/-- CRC8 (R110). -/
def execCrc8 (b0 b1 b2 b3 : Byte) (s : State) : Host.Outcome State Fault Refusal :=
  s.accept fun s =>
    let t := (s.loadBytes b0 b1 b2 b3).checksum
    .ok (t.complete (resOfByte t.frame.c))

/-- ENCW (R130). -/
def execEncw (reg : Byte) (w : Word) (s : State) : Host.Outcome State Fault Refusal :=
  s.accept fun s =>
    let t := (s.loadWrite reg w).checksum
    .ok (t.complete (resOfWire t.frame))

/-- DECR (R135). -/
def execDecr (lo hi : Byte) (s : State) : Host.Outcome State Fault Refusal :=
  s.accept fun s => .ok (s.loadReply lo hi).completeWord

end Sys2Proof.Machine
end

