-- ==== Sys2Proof/Machine/RegisterInterface.lean ====
section
/-! DEFINITION. The Register Interface's named operations (43_register_interface.md R180 to R202), each the WRREG or RDREG it expands
to; nothing is validated (R191) and no access kind is enforced (20_memory.md R70). -/

namespace Sys2Proof.Machine

/-- INIT (R181): three writes in order, whatever their failure flags, and always "success". A write that never returns leaves the host
waiting in it (R262), so the ones after it are not presented. -/
def execInit (s : State) : Host.Outcome State Fault Refusal :=
  s.accept fun s => do
    let s ← s.writeRegister s.host.regPowerMode s.host.pmOperate
    let s ← s.writeRegister s.host.regApa s.host.apaDefault
    let s ← s.writeRegister s.host.regStatusBit s.host.tmThermistor
    .ok { s with hostResult := .success }

/-- GET_VERSION (R182). -/
def execGetVersion (s : State) : Host.Outcome State Fault Refusal := s.accept (State.hostRead s.host.regVersion)

/-- INIT_RSOC (R183): the fixed sentinel word. -/
def execInitRsoc (s : State) : Host.Outcome State Fault Refusal :=
  s.accept (State.hostWrite s.host.regRsocInit Config.rsocInitSentinel)

/-- GET_VOLTAGE (R184): "the scaling is the identity on the 16-bit word". -/
def execGetVoltage (s : State) : Host.Outcome State Fault Refusal := s.accept (State.hostRead s.host.regCellVoltage)

/-- GET_ITE (R185). -/
def execGetIte (s : State) : Host.Outcome State Fault Refusal := s.accept (State.hostRead s.host.regIte)

/-- GET_RSOC (R186). -/
def execGetRsoc (s : State) : Host.Outcome State Fault Refusal := s.accept (State.hostRead s.host.regRsoc)

/-- GET_TEMP (R187): the word is opaque. -/
def execGetTemp (s : State) : Host.Outcome State Fault Refusal := s.accept (State.hostRead s.host.regCellTemp)

/-- SET_TEMP_MODE (R188): the whole register is overwritten, no read-modify-write. -/
def execSetTempMode (m : Word) (s : State) : Host.Outcome State Fault Refusal :=
  s.accept (State.hostWrite s.host.regStatusBit m)

/-- SET_CAPACITY (R189). -/
def execSetCapacity (p : Word) (s : State) : Host.Outcome State Fault Refusal :=
  s.accept (State.hostWrite s.host.regApa p)

/-- SET_ALARM_RSOC (R190). -/
def execSetAlarmRsoc (pct : Word) (s : State) : Host.Outcome State Fault Refusal :=
  s.accept (State.hostWrite s.host.regAlarmRsoc pct)

/-- SET_ALARM_VOLT (R193). -/
def execSetAlarmVolt (v : Volts) (s : State) : Host.Outcome State Fault Refusal :=
  s.accept (State.hostWrite s.host.regAlarmVoltage (voltsToWord v))

/-- SET_POWER_MODE (R194). -/
def execSetPowerMode (m : Word) (s : State) : Host.Outcome State Fault Refusal :=
  s.accept (State.hostWrite s.host.regPowerMode m)

/-- SET_PROFILE (R195). -/
def execSetProfile (i : Word) (s : State) : Host.Outcome State Fault Refusal :=
  s.accept (State.hostWrite s.host.regProfile i)

/-- GET_THERM_B (R196). -/
def execGetThermB (s : State) : Host.Outcome State Fault Refusal := s.accept (State.hostRead s.host.regThermB)

/-- SET_THERM_B (R197). -/
def execSetThermB (b : Word) (s : State) : Host.Outcome State Fault Refusal :=
  s.accept (State.hostWrite s.host.regThermB b)

end Sys2Proof.Machine
end

