-- ==== Sys2Proof/Machine/Transactions.lean ====
section
/-! DEFINITION. The two commands that use the bus: WRREG and RDREG (42_bus_transactions.md R151, R153). -/

namespace Sys2Proof.Machine

/-- WRREG (R151). -/
def execWrreg (reg : Byte) (w : Word) (s : State) : Host.Outcome State Fault Refusal :=
  s.accept (State.writeRegister reg w)

/-- RDREG (R153). -/
def execRdreg (reg : Byte) (s : State) : Host.Outcome State Fault Refusal :=
  s.accept (State.readRegister reg)

end Sys2Proof.Machine
end

