-- ==== Sys2Proof/Machine/Dispatch.lean ====
section
/-! DEFINITION. One arm per operation; each calls the meaning of its own. -/

namespace Sys2Proof.Machine

def exec (i : Instr) (s : State) : Host.Outcome State Fault Refusal :=
  match i with
  | .crc8 b0 b1 b2 b3 => Sys2Proof.Machine.execCrc8 b0 b1 b2 b3 s
  | .encw reg word => Sys2Proof.Machine.execEncw reg word s
  | .decr lo hi => Sys2Proof.Machine.execDecr lo hi s
  | .wrreg reg word => Sys2Proof.Machine.execWrreg reg word s
  | .rdreg reg => Sys2Proof.Machine.execRdreg reg s
  | .init => Sys2Proof.Machine.execInit s
  | .getVersion => Sys2Proof.Machine.execGetVersion s
  | .initRsoc => Sys2Proof.Machine.execInitRsoc s
  | .getVoltage => Sys2Proof.Machine.execGetVoltage s
  | .getIte => Sys2Proof.Machine.execGetIte s
  | .getRsoc => Sys2Proof.Machine.execGetRsoc s
  | .getTemp => Sys2Proof.Machine.execGetTemp s
  | .setTempMode m => Sys2Proof.Machine.execSetTempMode m s
  | .setCapacity p => Sys2Proof.Machine.execSetCapacity p s
  | .setAlarmRsoc pct => Sys2Proof.Machine.execSetAlarmRsoc pct s
  | .setAlarmVolt v => Sys2Proof.Machine.execSetAlarmVolt v s
  | .setPowerMode m => Sys2Proof.Machine.execSetPowerMode m s
  | .setProfile n => Sys2Proof.Machine.execSetProfile n s
  | .getThermB => Sys2Proof.Machine.execGetThermB s
  | .setThermB b => Sys2Proof.Machine.execSetThermB b s

end Sys2Proof.Machine
end

