-- ==== Sys2Proof/Machine/Fetch.lean ====
section
/-! DEFINITION. The next input (30_encoding.md R88; 70_reset_and_hazards.md R250 to R253, R260, R262). The block has no program counter
and fetches no program (10_state.md R26, 20_memory.md R67): what plays the part of fetching is taking the host's next input. Log 12. -/

namespace Sys2Proof.Machine

/-- What the next step is about. -/
inductive Fetched where
  /-- IDLE and nothing presented: the block waits for the host (R253). -/
  | waits
  /-- Waiting in a transport call, and nothing presented (R262). -/
  | stuck
  /-- The reset input; the state is the one with that input taken. -/
  | reset (s : State)
  /-- An operation to run; the state is the one with that input taken. -/
  | run (i : Instr) (s : State)
  /-- An input with no meaning. -/
  | rejected (r : Refusal)
deriving DecidableEq, Repr

/-- Take the next input. Where an input is both reserved or ill formed and presented while PHASE is not IDLE, two refusals apply and
the spec gives them no order (R91, R228, R260): the word is decoded first, so it is refused as reserved or ill formed and not as busy.
DESIGN CHOICE, log 29. -/
def fetch (s : State) : Fetched :=
  match s.inputs with
  | [] => if s.phase = .idle then .waits else .stuck
  | .reset :: rest => .reset { s with inputs := rest }
  | .word w :: rest =>
    match decode w with
    | .ok i => .run i { s with inputs := rest }
    | .error _ => .rejected .reservedEncoding
  | .op i :: rest => if i.wellFormed then .run i { s with inputs := rest } else .rejected .illFormed

/-- Present a command word next, before whatever inputs wait. -/
def State.present (w : CmdWord) (s : State) : State := { s with inputs := .word w :: s.inputs }

end Sys2Proof.Machine
end

