-- ==== Sys2Proof/Machine/Step.lean ====
section
/-! DEFINITION. One step: take the host's next input and run it (log 12). -/

namespace Sys2Proof.Machine

/-- One step. A command is one step, because the host blocks until it completes (10_state.md R27, log 7). -/
def step (s : State) : Host.Outcome State Fault Refusal :=
  match fetch s with
  | .waits => .next s
  | .stuck => .fault .awaitTransport
  | .reset t => .next t.applyReset
  | .run i t => exec i t
  | .rejected r => .refused r

/-- The state with the command word `w`, numbered as the opcode table numbers its bits, presented next (log 12, log 23). -/
def State.withFetchWord (s : State) (nbits w : Nat) : State := s.present (tableWord nbits w)

end Sys2Proof.Machine
end

