-- ==== Sys2Proof/Safety.lean ====
section
/-! DEFINITION. The terms claims are stated in: what the transport answers to a list of calls, the calls of the two transactions, the
premises about the transport and the device, and the invariant of the machine. -/

namespace Sys2Proof.Machine

/-- The oracle's answers to a list of calls made one after another, the first being call number `n` (R150, R156). -/
def Oracle.replies (o : Oracle) (n : Nat) : List Call → List Answer
  | [] => []
  | c :: cs => (o.answer c n).1 :: Oracle.replies (o.answer c n).2 (n + 1) cs

/-- The oracle after a list of calls. -/
def Oracle.afterCalls (o : Oracle) (n : Nat) : List Call → Oracle
  | [] => o
  | c :: cs => Oracle.afterCalls (o.answer c n).2 (n + 1) cs

/-- The transport's own state after a list of returned calls with their failure flags (R35). -/
def Bus.afterCalls (b : Bus) (n : Nat) : List (Call × Bool) → Bus
  | [] => b
  | (c, tf) :: cs => Bus.afterCalls (b.after c tf n) (n + 1) cs

/-- The checksum a write of `word` to `reg` carries (R119). -/
def writeChecksum (busAddrByte reg : Byte) (word : Word) : Byte := crc8 [busAddrByte, reg, lowByte word, highByte word]

/-- The checksum frame of a write (R80). -/
def writeFrame (busAddrByte reg : Byte) (word : Word) : Frame :=
  ⟨busAddrByte, reg, lowByte word, highByte word, writeChecksum busAddrByte reg word⟩

/-- The six calls of a write transaction (R151). -/
def writeCalls (devAddr : DevAddr) (busAddrByte reg : Byte) (word : Word) : List Call :=
  [.begin devAddr, .write reg, .write (lowByte word), .write (highByte word), .write (writeChecksum busAddrByte reg word),
    .finish .stop]

/-- The six calls of a read transaction (R153). -/
def readCalls (devAddr : DevAddr) (reg : Byte) : List Call :=
  [.begin devAddr, .write reg, .finish .nostop, .request devAddr 2, .read, .read]

/-- The state after a write transaction whose six calls returned with the flags `f0` to `f5` (R151). -/
def State.afterWrite (s : State) (reg : Byte) (word : Word) (f0 f1 f2 f3 f4 f5 : Bool) : State :=
  let calls := writeCalls s.devAddr s.busAddrByte reg word
  let c := writeChecksum s.busAddrByte reg word
  { s with
    rega := reg
    word := word
    frame := writeFrame s.busAddrByte reg word
    crc := c
    idx := 4
    bitcnt := 8
    res := 0
    completions := s.completions ++ [0]
    phase := .idle
    draws := s.draws + 6
    oracle := s.oracle.afterCalls s.draws calls
    bus := s.bus.afterCalls s.draws (calls.zip [f0, f1, f2, f3, f4, f5])
    history := s.history ++
      [⟨.begin s.devAddr, f0⟩, ⟨.write reg, f1⟩, ⟨.write (lowByte word), f2⟩, ⟨.write (highByte word), f3⟩, ⟨.write c, f4⟩,
        ⟨.finish .stop, f5⟩] }

/-- The state after a read transaction whose six calls returned with the flags `f0` to `f5` and whose two reads returned `lo`, then
`hi` (R153). -/
def State.afterRead (s : State) (reg lo hi : Byte) (f0 f1 f2 f3 f4 f5 : Bool) : State :=
  let calls := readCalls s.devAddr reg
  let r := resOfWord (assembleWord hi lo)
  { s with
    rega := reg
    rxl := lo
    rxh := hi
    res := r
    completions := s.completions ++ [r]
    phase := .idle
    draws := s.draws + 6
    oracle := s.oracle.afterCalls s.draws calls
    bus := s.bus.afterCalls s.draws (calls.zip [f0, f1, f2, f3, f4, f5])
    history := s.history ++
      [⟨.begin s.devAddr, f0⟩, ⟨.write reg, f1⟩, ⟨.finish .nostop, f2⟩, ⟨.request s.devAddr 2, f3⟩, ⟨.read lo, f4⟩,
        ⟨.read hi, f5⟩] }

/-- The state in which a write transaction waits for ever in one of its six calls (R262, log 6): as many calls as `rs` is long returned,
with the flags and bytes `rs` lists, and the next one does not return. RES is not written, no completion is presented, and the
transport's own state is unknown (log 30). -/
def State.waitingWrite (s : State) (reg : Byte) (word : Word) (rs : List (Bool × Byte)) : State :=
  let calls := writeCalls s.devAddr s.busAddrByte reg word
  { s with
    rega := reg
    word := word
    frame := writeFrame s.busAddrByte reg word
    crc := writeChecksum s.busAddrByte reg word
    idx := ([4, 1, 2, 3, 4, 4] : List (BitVec 3)).getD rs.length 4
    bitcnt := 8
    phase := .wrSend
    awaiting := calls[rs.length]?
    draws := s.draws + (rs.length + 1)
    oracle := s.oracle.afterCalls s.draws (calls.take (rs.length + 1))
    bus := Bus.unknown (s.draws + rs.length)
    history := s.history ++ List.zipWith (fun c p => ⟨c.event p.2, p.1⟩) calls rs }

/-- The state in which a read transaction waits for ever in one of its six calls (R262, log 6, log 30). -/
def State.waitingRead (s : State) (reg : Byte) (rs : List (Bool × Byte)) : State :=
  let calls := readCalls s.devAddr reg
  { s with
    rega := reg
    rxl := (rs[4]?.map Prod.snd).getD s.rxl
    phase := if rs.length < 3 then .rdAddr else .rdData
    awaiting := calls[rs.length]?
    draws := s.draws + (rs.length + 1)
    oracle := s.oracle.afterCalls s.draws (calls.take (rs.length + 1))
    bus := Bus.unknown (s.draws + rs.length)
    history := s.history ++ List.zipWith (fun c p => ⟨c.event p.2, p.1⟩) calls rs }

/-- Two answers alike but for the failure flag (R222, R223). -/
def Answer.agrees (p q : Answer) : Bool :=
  match p with
  | .returns _ x =>
    match q with
    | .returns _ y => x == y
    | .never => false
  | .never =>
    match q with
    | .returns _ _ => false
    | .never => true

/-- What is fixed of an event before the transport answers: all of it but the byte of a `T.read()` (R154). -/
def Event.shape : Event → Event
  | .read _ => .read 0
  | .begin a => .begin a
  | .write b => .write b
  | .finish how => .finish how
  | .request a n => .request a n

/-- The calls a command makes (R154): six for WRREG and RDREG, none for the others. The named operations make those of their expansion. -/
def commandCalls (devAddr : DevAddr) (busAddrByte : Byte) : Instr → List Call
  | .wrreg reg word => writeCalls devAddr busAddrByte reg word
  | .rdreg reg => readCalls devAddr reg
  | _ => []

/-- The register a named read reads (R180). -/
def namedRead : Instr → Option RegName
  | .getVersion => some .version
  | .getVoltage => some .cellVoltage
  | .getIte => some .ite
  | .getRsoc => some .rsoc
  | .getTemp => some .cellTemp
  | .getThermB => some .thermB
  | _ => none

/-- The register a named write writes, and the word (R180, R183, R193, R200). INIT is three writes and stands apart (R181). -/
def namedWrite : Instr → Option (RegName × Word)
  | .initRsoc => some (.rsocInit, 0xAA55)
  | .setTempMode m => some (.statusBit, m)
  | .setCapacity p => some (.apa, p)
  | .setAlarmRsoc pct => some (.alarmRsoc, pct)
  | .setAlarmVolt v => some (.alarmVoltage, voltsToWord v)
  | .setPowerMode m => some (.powerMode, m)
  | .setProfile i => some (.profile, i)
  | .setThermB b => some (.thermB, b)
  | _ => none

/-- What a named operation that is one command gives its caller once that command has completed (R198, R199). -/
def resultOf (c : Instr) (t : State) : HostResult :=
  match c with
  | .rdreg _ => .word (wordOfRes t.res)
  | _ => .nothing

/-- The tie of BUS_ADDR_BYTE to DEV_ADDR (R29, D5); a premise a claim may take, never assumed by a meaning. -/
def State.tied (s : State) : Bool := s.busAddrByte == (s.devAddr.setWidth 8 <<< 1)

/-- The launch premise (R255, D25): nothing in progress and no transmission open. -/
def State.launched (s : State) : Bool := s.phase == .idle && !s.bus.transmitting && s.history.isEmpty

/-- In which phase the block can be waiting in which call (R27, R262). -/
def Phase.awaits : Phase → Call → Bool
  | .wrSend, .begin _ | .wrSend, .write _ | .wrSend, .finish .stop => true
  | .rdAddr, .begin _ | .rdAddr, .write _ | .rdAddr, .finish .nostop => true
  | .rdData, .request _ _ | .rdData, .read => true
  | _, _ => false

/-- The stub's cells are in canonical form; a transport under no law holds none. -/
def Oracle.wf : Oracle → Bool
  | .free _ => true
  | .stub d => d.mem.wf

/-- The invariant: between steps the block is either idle and waits in no call, or waits in a call of the phase it is in (R27, R262);
IDX and BITCNT are in their ranges (R26); the stub's cells are in canonical form. -/
def State.inv (s : State) : Bool :=
  (match s.awaiting with
    | none => s.phase == .idle
    | some c => s.phase.awaits c) &&
  s.idx ≤ 4 && s.bitcnt ≤ 8 && s.oracle.wf

end Sys2Proof.Machine
end

