-- ==== Sys2Proof/Certificates/Slice0/Obligations.lean ====
section
/-! DEFINITION. The statements for the provers. Each docstring names the rule or section of the spec it comes from. -/

open Sys2Proof Sys2Proof.Machine

/-! ### The checksum (40_crc8.md) -/

/-- A byte step is eight bit steps of the register with the byte XORed in; in register terms it leaves BITCNT at 8 and moves IDX on, the
last time too (log 21); absorbing bytes in index order from the seed leaves their checksum in CRC (40_crc8.md section 1); the CRC phase
leaves it in F[4] (10_state.md section 3). -/
def Obligations.ChecksumInRegisterTerms : Prop :=
  (∀ c b : Byte, bytestep c b = bitstep^[8] (c ^^^ b)) ∧
  (∀ (s : State) (b : Byte), s.absorb b = { s with crc := bytestep s.crc b, bitcnt := 8, idx := s.idx + 1 }) ∧
  (∀ (s : State) (l : List Byte), (l.foldl State.absorb { s with crc := 0 }).crc = crc8 l ∧ crc8 l = l.foldl bytestep 0) ∧
  (∀ s : State, s.checksum.frame = { s.frame with c := crc8 [s.frame.a, s.frame.r, s.frame.l, s.frame.h] } ∧
    s.checksum.crc = s.checksum.frame.c)

/-- R114: the shift register a circuit would build; the bit that leaves the top is fed back into positions 0, 1 and 2. -/
def Obligations.BitStepFeedsBack : Prop :=
  ∀ c : Byte,
    (bitstep c).getLsbD 0 = c.getLsbD 7 ∧
    (bitstep c).getLsbD 1 = (c.getLsbD 0 ^^ c.getLsbD 7) ∧
    (bitstep c).getLsbD 2 = (c.getLsbD 1 ^^ c.getLsbD 7) ∧
    (bitstep c).getLsbD 3 = c.getLsbD 2 ∧
    (bitstep c).getLsbD 4 = c.getLsbD 3 ∧
    (bitstep c).getLsbD 5 = c.getLsbD 4 ∧
    (bitstep c).getLsbD 6 = c.getLsbD 5 ∧
    (bitstep c).getLsbD 7 = c.getLsbD 6

/-- R115: taking the input byte's bits one at a time, bit 7 first, gives the byte step. -/
def Obligations.BitSerialFormIsTheByteStep : Prop :=
  ∀ c b : Byte, bytestepSerial c b = bytestep c b

/-- R116: the printed table is the byte step from zero, gives every byte step by one look, is a permutation, and fixes zero. -/
def Obligations.TableFormIsTheByteStep : Prop :=
  crcTable.length = 256 ∧
  (∀ i : Byte, crcTableAt i = bytestep 0 i ∧ crc8 [i] = crcTableAt i) ∧
  (∀ c b : Byte, bytestepTable c b = bytestep c b) ∧
  Function.Bijective crcTableAt ∧
  crcTableAt 0 = 0

/-- R117 (a) to (g): the laws of the checksum. -/
def Obligations.ChecksumLaws : Prop :=
  crc8 [] = 0 ∧
  (∀ s : List Byte, (∀ b ∈ s, b = 0) → crc8 s = 0) ∧
  (∀ s : List Byte, crc8 (0 :: s) = crc8 s) ∧
  (∀ u v : List Byte, u.length = v.length → crc8 (List.zipWith (· ^^^ ·) u v) = crc8 u ^^^ crc8 v) ∧
  (∀ s : List Byte, crc8 (s ++ [crc8 s]) = 0) ∧
  (∀ u v : List Byte, crc8 (u ++ v) = v.foldl bytestep (crc8 u)) ∧
  (∀ (p s : List Byte) (x y : Byte), x ≠ y → crc8 (p ++ x :: s) ≠ crc8 (p ++ y :: s))

/-- R118's evidence and the source's example frame (95_test_vectors.md sections 2.1 and 2.2). -/
def Obligations.ChecksumKnownValues : Prop :=
  crc8 [0x31, 0x32, 0x33, 0x34, 0x35, 0x36, 0x37, 0x38, 0x39] = 0xF4 ∧ crc8 [0x16, 0x00, 0x00, 0x00] = 0x13

/-! ### The codec commands (40_crc8.md section 2, 41_frame_codec.md) -/

/-- CRC8 (40_crc8.md section 2): completes from every idle state, for every four bytes, with exactly these effects. That the operands
also go into F[0] to F[3] is the spec's own choice (D7), and so are the bounds IDX and BITCNT rest at (log 21). -/
def Obligations.Crc8Completes : Prop :=
  ∀ (s : State) (b0 b1 b2 b3 : Byte), s.phase = .idle →
    exec (.crc8 b0 b1 b2 b3) s = .next { s with
      frame := ⟨b0, b1, b2, b3, crc8 [b0, b1, b2, b3]⟩
      crc := crc8 [b0, b1, b2, b3]
      idx := 4
      bitcnt := 8
      res := (crc8 [b0, b1, b2, b3]).setWidth 32
      completions := s.completions ++ [(crc8 [b0, b1, b2, b3]).setWidth 32]
      phase := .idle }

/-- ENCW (41_frame_codec.md section 1): completes from every idle state, for every register and word, with exactly these effects; no
transport call. IDX and BITCNT rest at their bounds (log 21). -/
def Obligations.EncwCompletes : Prop :=
  ∀ (s : State) (reg : Byte) (w : Word), s.phase = .idle →
    exec (.encw reg w) s = .next { s with
      rega := reg
      word := w
      frame := ⟨s.busAddrByte, reg, lowByte w, highByte w, crc8 [s.busAddrByte, reg, lowByte w, highByte w]⟩
      crc := crc8 [s.busAddrByte, reg, lowByte w, highByte w]
      idx := 4
      bitcnt := 8
      res := reg ++ lowByte w ++ highByte w ++ crc8 [s.busAddrByte, reg, lowByte w, highByte w]
      completions := s.completions ++ [reg ++ lowByte w ++ highByte w ++ crc8 [s.busAddrByte, reg, lowByte w, highByte w]]
      phase := .idle }

/-- R131: the last wire byte is the checksum over the bus-address byte, the register address, the low and the high byte; the first
three are the register address, the low byte and the high byte, in that order. -/
def Obligations.EncwComposesTheFrame : Prop :=
  ∀ (s : State) (reg : Byte) (w : Word), s.phase = .idle →
    ∃ t, exec (.encw reg w) s = .next t ∧
      resByte t.res 3 = reg ∧ resByte t.res 2 = lowByte w ∧ resByte t.res 1 = highByte w ∧
      resByte t.res 0 = crc8 [s.busAddrByte, reg, lowByte w, highByte w]

/-- R132, marked derived: the receiver's check over its own bus-address byte and the four wire bytes gives zero. -/
def Obligations.EncwPassesTheReceiversCheck : Prop :=
  ∀ (s : State) (reg : Byte) (w : Word), s.phase = .idle →
    ∃ t, exec (.encw reg w) s = .next t ∧
      crc8 [s.busAddrByte, resByte t.res 3, resByte t.res 2, resByte t.res 1, resByte t.res 0] = 0

/-- The checksum of a frame whose word is zero can be zero with a register address that is not (log 28): a remark among R130's corner
cases says otherwise, and the algorithm of R111 to R113 decides. -/
def Obligations.ZeroWordChecksumCanBeZero : Prop :=
  ∃ t, exec (.encw 0x62 0) State.reset = .next t ∧ t.busAddrByte = 0x16 ∧ resByte t.res 0 = 0

/-- R135: DECR takes the byte received first, then the byte received second, into RXL and RXH, and its result is the word they make,
zero-extended; no event; with the rule's encoding and examples. -/
def Obligations.DecrMakesTheWord : Prop :=
  (∀ (s : State) (lo hi : Byte), s.phase = .idle →
    ∃ t, exec (.decr lo hi) s = .next t ∧ t.rxl = lo ∧ t.rxh = hi ∧ t.history = s.history ∧
      t.res = ((hi.setWidth 16 <<< 8) ||| lo.setWidth 16).setWidth 32) ∧
  (∀ lo hi : Byte, decode (0b011#3 ++ 0#16 ++ hi ++ lo) = .ok (.decr lo hi)) ∧
  resOfWord (assembleWord 0xFF 0xFF) = 0xFFFF ∧ resOfWord (assembleWord 0x80 0x00) = 0x8000 ∧
  resOfWord (assembleWord 0x12 0x34) = 0x1234

/-- DECR (41_frame_codec.md section 2): completes from every idle state, for every two bytes, with exactly these effects; the list of
completions is the model's own (log 16). -/
def Obligations.DecrCompletes : Prop :=
  ∀ (s : State) (lo hi : Byte), s.phase = .idle →
    exec (.decr lo hi) s = .next { s with
      rxl := lo
      rxh := hi
      res := resOfWord (assembleWord hi lo)
      completions := s.completions ++ [resOfWord (assembleWord hi lo)]
      phase := .idle }

/-- R136: DECR of a word's two bytes is the word, and the bytes of DECR's word are its operands. The second half is marked derived. -/
def Obligations.DecrRoundTrip : Prop :=
  (∀ (s : State) (v : Word), s.phase = .idle →
    ∃ t, exec (.decr (lowByte v) (highByte v)) s = .next t ∧ t.res = v.setWidth 32) ∧
  (∀ (s : State) (lo hi : Byte), s.phase = .idle →
    ∃ t, exec (.decr lo hi) s = .next t ∧ lowByte (wordOfRes t.res) = lo ∧ highByte (wordOfRes t.res) = hi)

/-- R84 and R85: splitting a word and assembling it again gives the word; an assembled word is unsigned, the high byte counting 256. -/
def Obligations.SplitThenAssemble : Prop :=
  (∀ w : Word, assembleWord (highByte w) (lowByte w) = w ∧ lowByte w = w.extractLsb' 0 8 ∧ highByte w = w.extractLsb' 8 8) ∧
  (∀ hi lo : Byte, (assembleWord hi lo).toNat = 256 * hi.toNat + lo.toNat ∧
    (assembleWord hi lo).extractLsb' 8 8 = hi ∧ (assembleWord hi lo).extractLsb' 0 8 = lo)

/-! ### The bus transactions (42_bus_transactions.md) -/

/-- R151: WRREG, when its six calls return, whatever their failure flags: the frame as ENCW's, exactly six events in this order, the
frame's first byte not among them, RES zero. That the last call's argument is `stop` is the spec's reading of the source (R152, D27). -/
def Obligations.WrregSendsTheFrame : Prop :=
  (∀ (s : State) (reg : Byte) (w : Word) (f0 f1 f2 f3 f4 f5 : Bool) (b0 b1 b2 b3 b4 b5 : Byte), s.phase = .idle →
    s.oracle.replies s.draws (writeCalls s.devAddr s.busAddrByte reg w) =
      [.returns f0 b0, .returns f1 b1, .returns f2 b2, .returns f3 b3, .returns f4 b4, .returns f5 b5] →
    ∃ t, exec (.wrreg reg w) s = .next t ∧ t.phase = .idle ∧ t.res = 0 ∧
      t.frame = ⟨s.busAddrByte, reg, lowByte w, highByte w, crc8 [s.busAddrByte, reg, lowByte w, highByte w]⟩ ∧
      t.history = s.history ++
        [⟨.begin s.devAddr, f0⟩, ⟨.write t.frame.r, f1⟩, ⟨.write t.frame.l, f2⟩, ⟨.write t.frame.h, f3⟩, ⟨.write t.frame.c, f4⟩,
          ⟨.finish .stop, f5⟩]) ∧
  (∀ (reg : Byte) (w : Word), decode (0b100#3 ++ 0#8 ++ reg ++ w) = .ok (.wrreg reg w))

/-- R153: RDREG, when its six calls return, whatever their failure flags: exactly six events in this order, the two bytes taken in the
order of arrival, the checksum register and the frame not used, RES the word the bytes make, zero-extended. -/
def Obligations.RdregFetchesTheWord : Prop :=
  (∀ (s : State) (reg lo hi : Byte) (f0 f1 f2 f3 f4 f5 : Bool) (b0 b1 b2 b3 : Byte), s.phase = .idle →
    s.oracle.replies s.draws (readCalls s.devAddr reg) =
      [.returns f0 b0, .returns f1 b1, .returns f2 b2, .returns f3 b3, .returns f4 lo, .returns f5 hi] →
    ∃ t, exec (.rdreg reg) s = .next t ∧ t.phase = .idle ∧ t.rega = reg ∧ t.rxl = lo ∧ t.rxh = hi ∧ t.crc = s.crc ∧
      t.frame = s.frame ∧ t.res = ((hi.setWidth 16 <<< 8) ||| lo.setWidth 16).setWidth 32 ∧
      t.history = s.history ++
        [⟨.begin s.devAddr, f0⟩, ⟨.write reg, f1⟩, ⟨.finish .nostop, f2⟩, ⟨.request s.devAddr 2, f3⟩, ⟨.read lo, f4⟩,
          ⟨.read hi, f5⟩]) ∧
  (∀ reg : Byte, decode (0b101#3 ++ 0#8 ++ reg ++ 0#16) = .ok (.rdreg reg))

/-- WRREG (42_bus_transactions.md section 2), every field: when its six calls return, the next state is `State.afterWrite`, which writes
them all out. Where IDX and BITCNT rest, the completions and the transport's own state are the model's (log 16, 17, 21, 30). -/
def Obligations.WrregCompletes : Prop :=
  ∀ (s : State) (reg : Byte) (w : Word) (f0 f1 f2 f3 f4 f5 : Bool) (b0 b1 b2 b3 b4 b5 : Byte), s.phase = .idle →
    s.oracle.replies s.draws (writeCalls s.devAddr s.busAddrByte reg w) =
      [.returns f0 b0, .returns f1 b1, .returns f2 b2, .returns f3 b3, .returns f4 b4, .returns f5 b5] →
    exec (.wrreg reg w) s = .next (s.afterWrite reg w f0 f1 f2 f3 f4 f5)

/-- RDREG (42_bus_transactions.md section 3), every field: when its six calls return, the next state is `State.afterRead`, which writes
them all out. The completions and the transport's own state are the model's (log 16, 17, 30). -/
def Obligations.RdregCompletes : Prop :=
  ∀ (s : State) (reg lo hi : Byte) (f0 f1 f2 f3 f4 f5 : Bool) (b0 b1 b2 b3 : Byte), s.phase = .idle →
    s.oracle.replies s.draws (readCalls s.devAddr reg) =
      [.returns f0 b0, .returns f1 b1, .returns f2 b2, .returns f3 b3, .returns f4 lo, .returns f5 hi] →
    exec (.rdreg reg) s = .next (s.afterRead reg lo hi f0 f1 f2 f3 f4 f5)

/-- R63: whether or not a transaction gets to its end, the events it has made are the first of its six in order, so a write frame
travels as register address, low byte, high byte, checksum; and a completed read has taken its low byte first. -/
def Obligations.BytesTravelInOrder : Prop :=
  (∀ (s t : State) (reg : Byte) (w : Word), exec (.wrreg reg w) s = .next t →
    ∃ k fs, k ≤ 6 ∧ fs.length = k ∧ (t.phase = .idle → k = 6) ∧
      t.history = s.history ++ List.zipWith Logged.mk
        (List.take k [.begin s.devAddr, .write reg, .write (lowByte w), .write (highByte w),
          .write (writeChecksum s.busAddrByte reg w), .finish .stop]) fs) ∧
  (∀ (s t : State) (reg : Byte), exec (.rdreg reg) s = .next t →
    ∃ k fs lo hi, k ≤ 6 ∧ fs.length = k ∧ (t.phase = .idle → k = 6 ∧ t.res = resOfWord (assembleWord hi lo)) ∧
      t.history = s.history ++ List.zipWith Logged.mk
        (List.take k [.begin s.devAddr, .write reg, .finish .nostop, .request s.devAddr 2, .read lo, .read hi]) fs)

/-- R262, with R228's `Stuck(AwaitTransport)`: when one of WRREG's calls never returns the block is left in WR_SEND, waiting in that
call, with the events up to it in H, RES as it was and no completion; `State.waitingWrite` writes every field out (log 6, log 21, log 30). -/
def Obligations.WrregWaitsInACall : Prop :=
  ∀ (s : State) (reg : Byte) (w : Word) (rs : List (Bool × Byte)), s.phase = .idle → rs.length < 6 →
    (s.oracle.replies s.draws (writeCalls s.devAddr s.busAddrByte reg w)).take (rs.length + 1) =
      rs.map (fun p => Answer.returns p.1 p.2) ++ [.never] →
    exec (.wrreg reg w) s = .next (s.waitingWrite reg w rs) ∧ (s.waitingWrite reg w rs).phase = .wrSend ∧
      (s.waitingWrite reg w rs).res = s.res ∧ (s.waitingWrite reg w rs).completions = s.completions ∧
      (s.waitingWrite reg w rs).history.length = s.history.length + rs.length

/-- R262 for RDREG: the block is left in RD_ADDR or RD_DATA, according to the call it waits in; `State.waitingRead` writes every field
out (log 6, log 30). -/
def Obligations.RdregWaitsInACall : Prop :=
  ∀ (s : State) (reg : Byte) (rs : List (Bool × Byte)), s.phase = .idle → rs.length < 6 →
    (s.oracle.replies s.draws (readCalls s.devAddr reg)).take (rs.length + 1) =
      rs.map (fun p => Answer.returns p.1 p.2) ++ [.never] →
    exec (.rdreg reg) s = .next (s.waitingRead reg rs) ∧
      (s.waitingRead reg rs).phase = (if rs.length < 3 then .rdAddr else .rdData) ∧
      (s.waitingRead reg rs).res = s.res ∧ (s.waitingRead reg rs).completions = s.completions ∧
      (s.waitingRead reg rs).history.length = s.history.length + rs.length

/-- R154, marked derived: a command that completes appends one event for each of its calls, whose shape the operands and the constants
alone decide; CRC8, ENCW and DECR make no call and leave the transport as it was. -/
def Obligations.EventShapeIsFixed : Prop :=
  ∀ (i : Instr) (s t : State), i.isCommand = true → exec i s = .next t → t.phase = .idle →
    t.history.map (fun l => l.event.shape) =
      s.history.map (fun l => l.event.shape) ++ (commandCalls s.devAddr s.busAddrByte i).map (Call.event 0) ∧
    t.draws = s.draws + (commandCalls s.devAddr s.busAddrByte i).length ∧
    t.oracle = s.oracle.afterCalls s.draws (commandCalls s.devAddr s.busAddrByte i) ∧
    (commandCalls s.devAddr s.busAddrByte i = [] → t.history = s.history ∧ t.bus = s.bus)

/-- R88's one completion for each accepted command, carrying RES; a command that has not completed has presented none and has not
written RES (log 16). -/
def Obligations.OneCompletionPerCommand : Prop :=
  ∀ (i : Instr) (s t : State), i.isCommand = true → exec i s = .next t →
    (t.phase = .idle → t.completions = s.completions ++ [t.res]) ∧
    (t.phase ≠ .idle → t.completions = s.completions ∧ t.res = s.res)

/-- The transport's own state as 10_state.md section 8 has it (log 17), whatever it was before; that this takes in a bus left by a failed or
abandoned transaction, whose unknown state an unflagged `T.begin` ends, is the model's choice (log 30). After a write with no call flagged no
transmission is open and the bus is released; in a read whose first three calls return with none flagged, whatever the transport
answers afterwards, the bus is held between naming the register and requesting its bytes, which is what the read then does. -/
def Obligations.BusIsReleasedAndHeld : Prop :=
  (∀ (s : State) (reg : Byte) (w : Word) (b0 b1 b2 b3 b4 b5 : Byte), s.phase = .idle →
    s.oracle.replies s.draws (writeCalls s.devAddr s.busAddrByte reg w) =
      [.returns false b0, .returns false b1, .returns false b2, .returns false b3, .returns false b4, .returns false b5] →
    ∃ t, exec (.wrreg reg w) s = .next t ∧ t.bus.transmitting = false ∧ t.bus.held = false) ∧
  (∀ (s : State) (reg b0 b1 b2 : Byte), s.phase = .idle →
    s.oracle.replies s.draws [.begin s.devAddr, .write reg, .finish .nostop] =
      [.returns false b0, .returns false b1, .returns false b2] →
    ∃ u t, (s.loadRead reg).sendAddress = .ok u ∧ u.bus.transmitting = false ∧ u.bus.held = true ∧
      exec (.rdreg reg) s = .next t ∧
      (u.fetchReply = .error t ∨ ∃ v, u.fetchReply = .ok v ∧ t = v.completeWord))

/-- After a transaction with a flagged call, whichever it is, the transport's own state is unknown, the bus not assumed released, even
where the calls after it are not flagged: 60_exceptions.md section 4, 91_not_in_source.md N39. That it is three free values of the
transaction's last call is the model's form of it (log 30). -/
def Obligations.BusIsUnknownAfterAFailure : Prop :=
  (∀ (s : State) (reg : Byte) (w : Word) (f0 f1 f2 f3 f4 f5 : Bool) (b0 b1 b2 b3 b4 b5 : Byte), s.phase = .idle →
    (f0 || f1 || f2 || f3 || f4 || f5) = true →
    s.oracle.replies s.draws (writeCalls s.devAddr s.busAddrByte reg w) =
      [.returns f0 b0, .returns f1 b1, .returns f2 b2, .returns f3 b3, .returns f4 b4, .returns f5 b5] →
    ∃ t, exec (.wrreg reg w) s = .next t ∧ t.bus = Bus.unknown (s.draws + 5)) ∧
  (∀ (s : State) (reg : Byte) (f0 f1 f2 f3 f4 f5 : Bool) (b0 b1 b2 b3 b4 b5 : Byte), s.phase = .idle →
    (f0 || f1 || f2 || f3 || f4 || f5) = true →
    s.oracle.replies s.draws (readCalls s.devAddr reg) =
      [.returns f0 b0, .returns f1 b1, .returns f2 b2, .returns f3 b3, .returns f4 b4, .returns f5 b5] →
    ∃ t, exec (.rdreg reg) s = .next t ∧ t.bus = Bus.unknown (s.draws + 5))

/-! ### The named operations (43_register_interface.md) -/

/-- R182, R184, R185, R186, R187, R196, R198: the six named reads are the RDREG of their register, and give their caller the word read,
raw, whatever the failure flags. -/
def Obligations.NamedReadsReturnTheWord : Prop :=
  ∀ (i : Instr) (reg : Byte) (s : State) (lo hi : Byte) (f0 f1 f2 f3 f4 f5 : Bool) (b0 b1 b2 b3 : Byte),
    (i, reg) ∈ [(.getVersion, s.host.regVersion), (.getVoltage, s.host.regCellVoltage), (.getIte, s.host.regIte),
      (.getRsoc, s.host.regRsoc), (.getTemp, s.host.regCellTemp), (.getThermB, s.host.regThermB)] →
    s.phase = .idle →
    s.oracle.replies s.draws (readCalls s.devAddr reg) =
      [.returns f0 b0, .returns f1 b1, .returns f2 b2, .returns f3 b3, .returns f4 lo, .returns f5 hi] →
    expand s.host i = [.rdreg reg] ∧
    ∃ t, exec i s = .next t ∧ t.hostResult = .word (assembleWord hi lo) ∧
      t.history = s.history ++
        [⟨.begin s.devAddr, f0⟩, ⟨.write reg, f1⟩, ⟨.finish .nostop, f2⟩, ⟨.request s.devAddr 2, f3⟩, ⟨.read lo, f4⟩,
          ⟨.read hi, f5⟩]

/-- R183, R188, R189, R190, R194, R195, R197, R199: six named writes are the WRREG of their register with their operand unmodified, and
INIT_RSOC that of the sentinel; each gives its caller nothing that depends on the bus. -/
def Obligations.NamedWritesSendTheWord : Prop :=
  ∀ (i : Instr) (reg : Byte) (w : Word) (s : State) (f0 f1 f2 f3 f4 f5 : Bool) (b0 b1 b2 b3 b4 b5 : Byte),
    (i, reg, w) ∈ [(.initRsoc, s.host.regRsocInit, 0xAA55), (.setTempMode w, s.host.regStatusBit, w), (.setCapacity w, s.host.regApa, w),
      (.setAlarmRsoc w, s.host.regAlarmRsoc, w), (.setPowerMode w, s.host.regPowerMode, w), (.setProfile w, s.host.regProfile, w),
      (.setThermB w, s.host.regThermB, w)] →
    s.phase = .idle →
    s.oracle.replies s.draws (writeCalls s.devAddr s.busAddrByte reg w) =
      [.returns f0 b0, .returns f1 b1, .returns f2 b2, .returns f3 b3, .returns f4 b4, .returns f5 b5] →
    expand s.host i = [.wrreg reg w] ∧
    ∃ t, exec i s = .next t ∧ t.hostResult = .nothing ∧
      t.history = s.history ++
        [⟨.begin s.devAddr, f0⟩, ⟨.write reg, f1⟩, ⟨.write (lowByte w), f2⟩, ⟨.write (highByte w), f3⟩,
          ⟨.write (crc8 [s.busAddrByte, reg, lowByte w, highByte w]), f4⟩, ⟨.finish .stop, f5⟩]

/-- GET_VERSION, GET_VOLTAGE, GET_ITE, GET_RSOC, GET_TEMP, GET_THERM_B (getVersion, getVoltage, getIte, getRsoc, getTemp, getThermB):
every field of the next state of each, that of its RDREG and the result (43_register_interface.md section 3; log 15). -/
def Obligations.NamedReadsComplete : Prop :=
  ∀ (i : Instr) (n : RegName) (s : State) (lo hi : Byte) (f0 f1 f2 f3 f4 f5 : Bool) (b0 b1 b2 b3 : Byte),
    namedRead i = some n → s.phase = .idle →
    s.oracle.replies s.draws (readCalls s.devAddr (s.host.addr n)) =
      [.returns f0 b0, .returns f1 b1, .returns f2 b2, .returns f3 b3, .returns f4 lo, .returns f5 hi] →
    exec i s = .next { s.afterRead (s.host.addr n) lo hi f0 f1 f2 f3 f4 f5 with hostResult := .word (assembleWord hi lo) }

/-- INIT_RSOC, SET_TEMP_MODE, SET_CAPACITY, SET_ALARM_RSOC, SET_ALARM_VOLT, SET_POWER_MODE, SET_PROFILE, SET_THERM_B (initRsoc,
setTempMode, setCapacity, setAlarmRsoc, setAlarmVolt, setPowerMode, setProfile, setThermB): every field of the next state of each, that
of its WRREG, with the operand, the sentinel or the converted volts (43_register_interface.md section 3; log 14, 15). -/
def Obligations.NamedWritesComplete : Prop :=
  ∀ (i : Instr) (n : RegName) (w : Word) (s : State) (f0 f1 f2 f3 f4 f5 : Bool) (b0 b1 b2 b3 b4 b5 : Byte),
    namedWrite i = some (n, w) → s.phase = .idle →
    s.oracle.replies s.draws (writeCalls s.devAddr s.busAddrByte (s.host.addr n) w) =
      [.returns f0 b0, .returns f1 b1, .returns f2 b2, .returns f3 b3, .returns f4 b4, .returns f5 b5] →
    exec i s = .next { s.afterWrite (s.host.addr n) w f0 f1 f2 f3 f4 f5 with hostResult := .nothing }

/-- R181: INIT issues exactly three writes in order (power mode = operate, capacity = the default profile, temperature mode =
thermistor), 18 events and no read, and always reports success, whatever the failure flags. -/
def Obligations.InitIssuesThreeWrites : Prop :=
  ∀ (s : State) (fs : List Bool) (bs : List Byte),
    let calls := writeCalls s.devAddr s.busAddrByte s.host.regPowerMode s.host.pmOperate ++
      writeCalls s.devAddr s.busAddrByte s.host.regApa s.host.apaDefault ++
      writeCalls s.devAddr s.busAddrByte s.host.regStatusBit s.host.tmThermistor
    s.phase = .idle → fs.length = 18 → bs.length = 18 →
    s.oracle.replies s.draws calls = List.zipWith Answer.returns fs bs →
    expand s.host .init = [.wrreg s.host.regPowerMode s.host.pmOperate, .wrreg s.host.regApa s.host.apaDefault,
      .wrreg s.host.regStatusBit s.host.tmThermistor] ∧
    ∃ t, exec .init s = .next t ∧ t.hostResult = .success ∧
      t.history = s.history ++ List.zipWith Logged.mk (calls.map (Call.event 0)) fs

/-- INIT (43_register_interface.md section 3), every field of the next state once its three writes have completed (log 15, 16, 17, 21). -/
def Obligations.InitCompletes : Prop :=
  ∀ (s : State) (fs : List Bool) (bs : List Byte),
    let calls := writeCalls s.devAddr s.busAddrByte s.host.regPowerMode s.host.pmOperate ++
      writeCalls s.devAddr s.busAddrByte s.host.regApa s.host.apaDefault ++
      writeCalls s.devAddr s.busAddrByte s.host.regStatusBit s.host.tmThermistor
    s.phase = .idle → fs.length = 18 → bs.length = 18 →
    s.oracle.replies s.draws calls = List.zipWith Answer.returns fs bs →
    exec .init s = .next { s with
      rega := s.host.regStatusBit
      word := s.host.tmThermistor
      frame := writeFrame s.busAddrByte s.host.regStatusBit s.host.tmThermistor
      crc := writeChecksum s.busAddrByte s.host.regStatusBit s.host.tmThermistor
      idx := 4
      bitcnt := 8
      res := 0
      completions := s.completions ++ [0, 0, 0]
      phase := .idle
      draws := s.draws + 18
      oracle := s.oracle.afterCalls s.draws calls
      bus := s.bus.afterCalls s.draws (calls.zip fs)
      history := s.history ++ List.zipWith Logged.mk (calls.map (Call.event 0)) fs
      hostResult := .success }

/-- SET_ALARM_VOLT 3.7 writes 3700, low byte 0x74 and high byte 0x0E (95_test_vectors.md S4; 3.7 volts as a fraction, log 14). -/
def Obligations.AlarmVoltagePin : Prop :=
  voltsToWord (.finite 37 10) = 3700 ∧ lowByte 3700 = 0x74 ∧ highByte 3700 = 0x0E ∧
  ∀ (s : State) (f0 f1 f2 f3 f4 f5 : Bool) (b0 b1 b2 b3 b4 b5 : Byte), s.phase = .idle →
    s.oracle.replies s.draws (writeCalls s.devAddr s.busAddrByte s.host.regAlarmVoltage 3700) =
      [.returns f0 b0, .returns f1 b1, .returns f2 b2, .returns f3 b3, .returns f4 b4, .returns f5 b5] →
    exec (.setAlarmVolt (.finite 37 10)) s =
      .next { s.afterWrite s.host.regAlarmVoltage 3700 f0 f1 f2 f3 f4 f5 with hostResult := .nothing }

/-- A named operation that expands to one command does what that command does, waiting where it waits, and then has its result
(43_register_interface.md sections 1 and 2; 30_encoding.md section 8). That the result has a field of its own, which stays as it was while
the block waits, is the model's choice (log 15). INIT is three commands and has statements of its own. -/
def Obligations.NamedOperationsExpand : Prop :=
  ∀ (i c : Instr) (s : State), i.isCommand = false → expand s.host i = [c] →
    (∀ t, exec c s = .next t → t.phase = .idle → exec i s = .next { t with hostResult := resultOf c t }) ∧
    (∀ t, exec c s = .next t → t.phase ≠ .idle → exec i s = .next t) ∧
    (∀ r, exec c s = .refused r → exec i s = .refused r)

/-! ### The command word (30_encoding.md) -/

/-- Every command decodes from its word to itself, every operand at every value (30_encoding.md sections 4 and 5, D14); the named
operations have no word (section 8). -/
def Obligations.DecodeOfEncode : Prop :=
  (∀ (i : Instr) (w : CmdWord), encode i = some w → decode w = .ok i) ∧
  (∀ i : Instr, (∃ w, encode i = some w) ↔ i.isCommand = true)

/-- A word that decodes is the word of what it decodes to, so no two words are one command. -/
def Obligations.EncodeOfDecode : Prop :=
  ∀ (w : CmdWord) (i : Instr), decode w = .ok i → encode i = some w

/-- The decoder and the printed operation map agree (30_encoding.md section 5): a word decodes to a command exactly when it selects that
command's row by match and mask, and it selects no two rows. -/
def Obligations.DecodeFollowsTheMap : Prop :=
  (∀ (w : CmdWord) (r : MapRow), r ∈ operationMap →
    (r.selects w = true ↔ ∃ i, decode w = .ok i ∧ i.mapMnemonic = some r.mnemonic)) ∧
  (∀ (w : CmdWord) (r q : MapRow), r ∈ operationMap → q ∈ operationMap → r.selects w = true → q.selects w = true → r = q)

/-- Words the spec writes out (30_encoding.md section 5; 95_test_vectors.md section 2.9), accepted and reserved. -/
def Obligations.SpelledOutWordsDecode : Prop :=
  decode 0x116000000 = .ok (.crc8 0x16 0x00 0x00 0x00) ∧
  decode 0x200150001 = .ok (.encw 0x15 0x0001) ∧
  decode 0x300001234 = .ok (.decr 0x34 0x12) ∧
  decode 0x400150001 = .ok (.wrreg 0x15 0x0001) ∧
  decode 0x500090000 = .ok (.rdreg 0x09) ∧
  decode 0x280150001 = .error .mustBeZero ∧
  decode 0x500090001 = .error .mustBeZero ∧
  decode 0x600000000 = .error .reservedOp

/-! ### The machine -/

/-- When the next input is a command word, or an operation that is well formed, the step is `exec` of it on the state with that input
taken, and nothing else (log 12). -/
def Obligations.StepRunsTheNextInput : Prop :=
  (∀ (s : State) (w : CmdWord) (i : Instr) (rest : List Input), s.inputs = .word w :: rest → decode w = .ok i →
    step s = exec i { s with inputs := rest }) ∧
  (∀ (s : State) (i : Instr) (rest : List Input), s.inputs = .op i :: rest → i.wellFormed = true →
    step s = exec i { s with inputs := rest })

/-- A command word that selects no row of the operation map is refused and has no step (30_encoding.md section 6, D15; log 10).
That this is the refusal also while PHASE is not IDLE, and not busy, is the model's choice (log 29). -/
def Obligations.ReservedWordsAreRefused : Prop :=
  ∀ (s : State) (w : CmdWord) (rest : List Input), s.inputs = .word w :: rest →
    (∀ r ∈ operationMap, r.selects w = false) → step s = .refused .reservedEncoding

/-- A command presented while PHASE is not IDLE is refused, whichever it is (70_reset_and_hazards.md section 3, D32; log 9). -/
def Obligations.BusyBlockRefuses : Prop :=
  ∀ (i : Instr) (s : State), s.phase ≠ .idle → exec i s = .refused .busy

/-- From IDLE every operation has a next state, whatever its operands: nothing is validated, nothing is privileged and nothing traps
(30_encoding.md section 6, 60_exceptions.md sections 1 and 5), and the next state is idle or waits in a transport call (log 6). -/
def Obligations.IdleBlockRunsEverything : Prop :=
  ∀ (i : Instr) (s : State), s.phase = .idle → s.awaiting = none →
    ∃ t, exec i s = .next t ∧ ((t.phase = .idle ∧ t.awaiting = none) ∨ ∃ c, t.awaiting = some c ∧ t.phase.awaits c = true)

/-- With no input the idle block waits for the host and the block that waits in a call has no step (70_reset_and_hazards.md sections 1
and 3; log 6 and log 12). -/
def Obligations.StepWithoutInput : Prop :=
  ∀ s : State, s.inputs = [] →
    (s.phase = .idle → step s = .next s) ∧ (s.phase ≠ .idle → step s = .fault .awaitTransport)

/-- The reset input, also in the middle of a command (70_reset_and_hazards.md section 1): IDLE, waiting in no call, the constants, H,
the completions, the transport and the IC as they were. The values of the working registers (log 1) and the moments at which the input is taken (log 8) are the model's. -/
def Obligations.ResetInputAbandonsTheCommand : Prop :=
  ∀ (s : State) (rest : List Input), s.inputs = .reset :: rest →
    step s = .next { s with
      inputs := rest, phase := .idle, awaiting := none, crc := 0, frame := ⟨0, 0, 0, 0, 0⟩, rxl := 0, rxh := 0, rega := 0,
      word := 0, res := 0, idx := 0, bitcnt := 0 }

/-- What reset leaves (10_state.md section 9): IDLE, H empty, the constants of the instance described (log 2), tied as D5 has it, and the
launch premise; the host's parameters are the open constants of 00_scope.md section 4 (log 13). -/
def Obligations.ResetLeaves : Prop :=
  State.reset.phase = .idle ∧ State.reset.history = [] ∧ State.reset.devAddr = 0x0B ∧ State.reset.busAddrByte = 0x16 ∧
  State.reset.tied = true ∧ State.reset.launched = true ∧ State.reset.host = Config.hostParams

/-- The phases a command passes through (10_state.md section 3, D8): LOAD, CRC and the transport's phases are entered by the operations
named for them, and completion returns to IDLE. -/
def Obligations.PhaseMoves : Prop :=
  ∀ (s : State) (b0 b1 b2 b3 reg : Byte) (w : Word) (r : ResWord),
    (s.loadBytes b0 b1 b2 b3).phase = .load ∧ (s.loadWrite reg w).phase = .load ∧ (s.loadReply b0 b1).phase = .load ∧
    (s.loadRead reg).phase = .load ∧ s.checksum.phase = .crc ∧
    (∀ t, s.sendWrite = .ok t → t.phase = .wrSend) ∧ (∀ t, s.sendAddress = .ok t → t.phase = .rdAddr) ∧
    (∀ t, s.fetchReply = .ok t → t.phase = .rdData) ∧ (s.complete r).phase = .idle

/-- The invariant holds at reset. -/
def Obligations.InvariantAtReset : Prop := State.reset.inv = true

/-- Every step keeps the invariant: the block is idle and waits in no call, or waits in a call of its phase (R27, R262); IDX is at
most 4 and BITCNT at most 8 (R26); the stub's cells are in canonical form. -/
def Obligations.StepKeepsTheInvariant : Prop :=
  ∀ s t : State, s.inv = true → step s = .next t → t.inv = true

/-- DEV_ADDR and BUS_ADDR_BYTE never change: "set once and immutable thereafter" is said of the bus address (10_state.md section 4, C5).
The host's parameters do not either: they are constants (00_scope.md section 4, log 13). -/
def Obligations.StepKeepsTheConstants : Prop :=
  ∀ s t : State, step s = .next t → t.devAddr = s.devAddr ∧ t.busAddrByte = s.busAddrByte ∧ t.host = s.host

/-- H and the completions only grow, at the end: no call of a later command precedes one of an earlier command (20_memory.md section 7).
The list of completions, which reset does not clear, is the model's (log 16), and so is the counter of calls made, by which H grows at
most (log 22). -/
def Obligations.HistoryOnlyGrows : Prop :=
  ∀ s t : State, step s = .next t →
    s.history <+: t.history ∧ s.completions <+: t.completions ∧ t.history.length - s.history.length ≤ t.draws - s.draws

/-- R32, marked derived: what a command does is a function of its operands, the constants and the transport; no working register's
value before it matters. The counter of calls made, equal in the two states, numbers the free values of the transport (log 22). -/
def Obligations.CommandsAreStateless : Prop :=
  ∀ (i : Instr) (s1 s2 t1 t2 : State),
    s1.devAddr = s2.devAddr → s1.busAddrByte = s2.busAddrByte → s1.host = s2.host → s1.oracle = s2.oracle → s1.draws = s2.draws →
    exec i s1 = .next t1 → exec i s2 = .next t2 →
    t1.phase = t2.phase ∧ (t1.phase = .idle → t1.res = t2.res) ∧
    t1.history.drop s1.history.length = t2.history.drop s2.history.length ∧
    t1.completions.drop s1.completions.length = t2.completions.drop s2.completions.length ∧
    t1.oracle = t2.oracle ∧ t1.draws = t2.draws

/-- R223, marked derived: failure flags change nothing but the flags in H and the transport's own state: same events, same registers,
same result, same phase, whatever was flagged. -/
def Obligations.FlagsNeverMatter : Prop :=
  ∀ (i : Instr) (s t u : State) (as bs : List Answer), List.Forall₂ (fun a b => a.agrees b = true) as bs →
    exec i { s with oracle := .free as } = .next t → exec i { s with oracle := .free bs } = .next u →
    u = { t with history := u.history, bus := u.bus, oracle := u.oracle } ∧
    u.history.map (fun l => l.event) = t.history.map (fun l => l.event)

/-! ### Under the deterministic stub (95_test_vectors.md section 4, D30): a named premise, no claim about the real IC -/

/-- A write whose frame passes the stub's check stores the word and changes no other byte of the register array; any other write
changes none. -/
def Obligations.StubWriteFrame : Prop :=
  ∀ (s : State) (d : Stub) (reg : Byte) (w : Word), s.phase = .idle → s.oracle = .stub d → d.mem.wf = true →
    ∃ t d', exec (.wrreg reg w) s = .next t ∧ t.phase = .idle ∧ t.oracle = .stub d' ∧ d'.mem.wf = true ∧
      (d.addrByte = s.busAddrByte → d'.mem.readWord reg = w ∧
        ∀ a, a ≠ 2 * reg.toNat → a ≠ 2 * reg.toNat + 1 → Memory.read a d'.mem = Memory.read a d.mem) ∧
      (d.addrByte ≠ s.busAddrByte → d'.mem = d.mem)

/-- A read returns the stored word and leaves every byte of the register array alone, so two reads of one register with no write
between agree (95_test_vectors.md S6). -/
def Obligations.StubReadsAreIdempotent : Prop :=
  ∀ (s : State) (d : Stub) (reg : Byte), s.phase = .idle → s.oracle = .stub d →
    ∃ t u d', exec (.rdreg reg) s = .next t ∧ exec (.rdreg reg) t = .next u ∧ t.oracle = .stub d' ∧ d'.mem = d.mem ∧
      t.res = resOfWord (d.mem.readWord reg) ∧ u.res = t.res

/-- Under the stub a register read after a write gives the word written, and every other register gives what it held. -/
def Obligations.StubReadAfterWrite : Prop :=
  ∀ (s : State) (d : Stub) (reg other : Byte) (w : Word), s.phase = .idle → s.oracle = .stub d → d.addrByte = s.busAddrByte →
    d.mem.wf = true →
    ∃ t u, exec (.wrreg reg w) s = .next t ∧ exec (.rdreg other) t = .next u ∧
      u.res = resOfWord (if other = reg then w else d.mem.readWord other)
end

