-- ==== Sys2Proof/Laws/State.lean ====
section
/-! SUPPORT. What each plain update of the state leaves in each field, true by rfl. -/

namespace Sys2Proof.Machine

@[simp] theorem State.enter_devAddr (p : Phase) (s : State) : (State.enter p s).devAddr = s.devAddr := rfl
@[simp] theorem State.enter_busAddrByte (p : Phase) (s : State) : (State.enter p s).busAddrByte = s.busAddrByte := rfl
@[simp] theorem State.enter_crc (p : Phase) (s : State) : (State.enter p s).crc = s.crc := rfl
@[simp] theorem State.enter_frame (p : Phase) (s : State) : (State.enter p s).frame = s.frame := rfl
@[simp] theorem State.enter_rxl (p : Phase) (s : State) : (State.enter p s).rxl = s.rxl := rfl
@[simp] theorem State.enter_rxh (p : Phase) (s : State) : (State.enter p s).rxh = s.rxh := rfl
@[simp] theorem State.enter_rega (p : Phase) (s : State) : (State.enter p s).rega = s.rega := rfl
@[simp] theorem State.enter_word (p : Phase) (s : State) : (State.enter p s).word = s.word := rfl
@[simp] theorem State.enter_res (p : Phase) (s : State) : (State.enter p s).res = s.res := rfl
@[simp] theorem State.enter_idx (p : Phase) (s : State) : (State.enter p s).idx = s.idx := rfl
@[simp] theorem State.enter_bitcnt (p : Phase) (s : State) : (State.enter p s).bitcnt = s.bitcnt := rfl
@[simp] theorem State.enter_phase (p : Phase) (s : State) : (State.enter p s).phase = p := rfl
@[simp] theorem State.enter_history (p : Phase) (s : State) : (State.enter p s).history = s.history := rfl
@[simp] theorem State.enter_completions (p : Phase) (s : State) : (State.enter p s).completions = s.completions := rfl
@[simp] theorem State.enter_awaiting (p : Phase) (s : State) : (State.enter p s).awaiting = s.awaiting := rfl
@[simp] theorem State.enter_draws (p : Phase) (s : State) : (State.enter p s).draws = s.draws := rfl
@[simp] theorem State.enter_oracle (p : Phase) (s : State) : (State.enter p s).oracle = s.oracle := rfl
@[simp] theorem State.enter_bus (p : Phase) (s : State) : (State.enter p s).bus = s.bus := rfl
@[simp] theorem State.enter_inputs (p : Phase) (s : State) : (State.enter p s).inputs = s.inputs := rfl
@[simp] theorem State.enter_hostResult (p : Phase) (s : State) : (State.enter p s).hostResult = s.hostResult := rfl
@[simp] theorem State.enter_host (p : Phase) (s : State) : (State.enter p s).host = s.host := rfl

@[simp] theorem State.loadBytes_devAddr (b0 b1 b2 b3 : Byte) (s : State) : (State.loadBytes b0 b1 b2 b3 s).devAddr = s.devAddr := rfl
@[simp] theorem State.loadBytes_busAddrByte (b0 b1 b2 b3 : Byte) (s : State) : (State.loadBytes b0 b1 b2 b3 s).busAddrByte = s.busAddrByte := rfl
@[simp] theorem State.loadBytes_crc (b0 b1 b2 b3 : Byte) (s : State) : (State.loadBytes b0 b1 b2 b3 s).crc = s.crc := rfl
@[simp] theorem State.loadBytes_frame (b0 b1 b2 b3 : Byte) (s : State) : (State.loadBytes b0 b1 b2 b3 s).frame = s.frame.filled b0 b1 b2 b3 := rfl
@[simp] theorem State.loadBytes_rxl (b0 b1 b2 b3 : Byte) (s : State) : (State.loadBytes b0 b1 b2 b3 s).rxl = s.rxl := rfl
@[simp] theorem State.loadBytes_rxh (b0 b1 b2 b3 : Byte) (s : State) : (State.loadBytes b0 b1 b2 b3 s).rxh = s.rxh := rfl
@[simp] theorem State.loadBytes_rega (b0 b1 b2 b3 : Byte) (s : State) : (State.loadBytes b0 b1 b2 b3 s).rega = s.rega := rfl
@[simp] theorem State.loadBytes_word (b0 b1 b2 b3 : Byte) (s : State) : (State.loadBytes b0 b1 b2 b3 s).word = s.word := rfl
@[simp] theorem State.loadBytes_res (b0 b1 b2 b3 : Byte) (s : State) : (State.loadBytes b0 b1 b2 b3 s).res = s.res := rfl
@[simp] theorem State.loadBytes_idx (b0 b1 b2 b3 : Byte) (s : State) : (State.loadBytes b0 b1 b2 b3 s).idx = s.idx := rfl
@[simp] theorem State.loadBytes_bitcnt (b0 b1 b2 b3 : Byte) (s : State) : (State.loadBytes b0 b1 b2 b3 s).bitcnt = s.bitcnt := rfl
@[simp] theorem State.loadBytes_phase (b0 b1 b2 b3 : Byte) (s : State) : (State.loadBytes b0 b1 b2 b3 s).phase = .load := rfl
@[simp] theorem State.loadBytes_history (b0 b1 b2 b3 : Byte) (s : State) : (State.loadBytes b0 b1 b2 b3 s).history = s.history := rfl
@[simp] theorem State.loadBytes_completions (b0 b1 b2 b3 : Byte) (s : State) : (State.loadBytes b0 b1 b2 b3 s).completions = s.completions := rfl
@[simp] theorem State.loadBytes_awaiting (b0 b1 b2 b3 : Byte) (s : State) : (State.loadBytes b0 b1 b2 b3 s).awaiting = s.awaiting := rfl
@[simp] theorem State.loadBytes_draws (b0 b1 b2 b3 : Byte) (s : State) : (State.loadBytes b0 b1 b2 b3 s).draws = s.draws := rfl
@[simp] theorem State.loadBytes_oracle (b0 b1 b2 b3 : Byte) (s : State) : (State.loadBytes b0 b1 b2 b3 s).oracle = s.oracle := rfl
@[simp] theorem State.loadBytes_bus (b0 b1 b2 b3 : Byte) (s : State) : (State.loadBytes b0 b1 b2 b3 s).bus = s.bus := rfl
@[simp] theorem State.loadBytes_inputs (b0 b1 b2 b3 : Byte) (s : State) : (State.loadBytes b0 b1 b2 b3 s).inputs = s.inputs := rfl
@[simp] theorem State.loadBytes_hostResult (b0 b1 b2 b3 : Byte) (s : State) : (State.loadBytes b0 b1 b2 b3 s).hostResult = s.hostResult := rfl
@[simp] theorem State.loadBytes_host (b0 b1 b2 b3 : Byte) (s : State) : (State.loadBytes b0 b1 b2 b3 s).host = s.host := rfl

@[simp] theorem State.loadWrite_devAddr (reg : Byte) (w : Word) (s : State) : (State.loadWrite reg w s).devAddr = s.devAddr := rfl
@[simp] theorem State.loadWrite_busAddrByte (reg : Byte) (w : Word) (s : State) : (State.loadWrite reg w s).busAddrByte = s.busAddrByte := rfl
@[simp] theorem State.loadWrite_crc (reg : Byte) (w : Word) (s : State) : (State.loadWrite reg w s).crc = s.crc := rfl
@[simp] theorem State.loadWrite_frame (reg : Byte) (w : Word) (s : State) : (State.loadWrite reg w s).frame = s.frame.filled s.busAddrByte reg (lowByte w) (highByte w) := rfl
@[simp] theorem State.loadWrite_rxl (reg : Byte) (w : Word) (s : State) : (State.loadWrite reg w s).rxl = s.rxl := rfl
@[simp] theorem State.loadWrite_rxh (reg : Byte) (w : Word) (s : State) : (State.loadWrite reg w s).rxh = s.rxh := rfl
@[simp] theorem State.loadWrite_rega (reg : Byte) (w : Word) (s : State) : (State.loadWrite reg w s).rega = reg := rfl
@[simp] theorem State.loadWrite_word (reg : Byte) (w : Word) (s : State) : (State.loadWrite reg w s).word = w := rfl
@[simp] theorem State.loadWrite_res (reg : Byte) (w : Word) (s : State) : (State.loadWrite reg w s).res = s.res := rfl
@[simp] theorem State.loadWrite_idx (reg : Byte) (w : Word) (s : State) : (State.loadWrite reg w s).idx = s.idx := rfl
@[simp] theorem State.loadWrite_bitcnt (reg : Byte) (w : Word) (s : State) : (State.loadWrite reg w s).bitcnt = s.bitcnt := rfl
@[simp] theorem State.loadWrite_phase (reg : Byte) (w : Word) (s : State) : (State.loadWrite reg w s).phase = .load := rfl
@[simp] theorem State.loadWrite_history (reg : Byte) (w : Word) (s : State) : (State.loadWrite reg w s).history = s.history := rfl
@[simp] theorem State.loadWrite_completions (reg : Byte) (w : Word) (s : State) : (State.loadWrite reg w s).completions = s.completions := rfl
@[simp] theorem State.loadWrite_awaiting (reg : Byte) (w : Word) (s : State) : (State.loadWrite reg w s).awaiting = s.awaiting := rfl
@[simp] theorem State.loadWrite_draws (reg : Byte) (w : Word) (s : State) : (State.loadWrite reg w s).draws = s.draws := rfl
@[simp] theorem State.loadWrite_oracle (reg : Byte) (w : Word) (s : State) : (State.loadWrite reg w s).oracle = s.oracle := rfl
@[simp] theorem State.loadWrite_bus (reg : Byte) (w : Word) (s : State) : (State.loadWrite reg w s).bus = s.bus := rfl
@[simp] theorem State.loadWrite_inputs (reg : Byte) (w : Word) (s : State) : (State.loadWrite reg w s).inputs = s.inputs := rfl
@[simp] theorem State.loadWrite_hostResult (reg : Byte) (w : Word) (s : State) : (State.loadWrite reg w s).hostResult = s.hostResult := rfl
@[simp] theorem State.loadWrite_host (reg : Byte) (w : Word) (s : State) : (State.loadWrite reg w s).host = s.host := rfl

@[simp] theorem State.loadReply_devAddr (lo hi : Byte) (s : State) : (State.loadReply lo hi s).devAddr = s.devAddr := rfl
@[simp] theorem State.loadReply_busAddrByte (lo hi : Byte) (s : State) : (State.loadReply lo hi s).busAddrByte = s.busAddrByte := rfl
@[simp] theorem State.loadReply_crc (lo hi : Byte) (s : State) : (State.loadReply lo hi s).crc = s.crc := rfl
@[simp] theorem State.loadReply_frame (lo hi : Byte) (s : State) : (State.loadReply lo hi s).frame = s.frame := rfl
@[simp] theorem State.loadReply_rxl (lo hi : Byte) (s : State) : (State.loadReply lo hi s).rxl = lo := rfl
@[simp] theorem State.loadReply_rxh (lo hi : Byte) (s : State) : (State.loadReply lo hi s).rxh = hi := rfl
@[simp] theorem State.loadReply_rega (lo hi : Byte) (s : State) : (State.loadReply lo hi s).rega = s.rega := rfl
@[simp] theorem State.loadReply_word (lo hi : Byte) (s : State) : (State.loadReply lo hi s).word = s.word := rfl
@[simp] theorem State.loadReply_res (lo hi : Byte) (s : State) : (State.loadReply lo hi s).res = s.res := rfl
@[simp] theorem State.loadReply_idx (lo hi : Byte) (s : State) : (State.loadReply lo hi s).idx = s.idx := rfl
@[simp] theorem State.loadReply_bitcnt (lo hi : Byte) (s : State) : (State.loadReply lo hi s).bitcnt = s.bitcnt := rfl
@[simp] theorem State.loadReply_phase (lo hi : Byte) (s : State) : (State.loadReply lo hi s).phase = .load := rfl
@[simp] theorem State.loadReply_history (lo hi : Byte) (s : State) : (State.loadReply lo hi s).history = s.history := rfl
@[simp] theorem State.loadReply_completions (lo hi : Byte) (s : State) : (State.loadReply lo hi s).completions = s.completions := rfl
@[simp] theorem State.loadReply_awaiting (lo hi : Byte) (s : State) : (State.loadReply lo hi s).awaiting = s.awaiting := rfl
@[simp] theorem State.loadReply_draws (lo hi : Byte) (s : State) : (State.loadReply lo hi s).draws = s.draws := rfl
@[simp] theorem State.loadReply_oracle (lo hi : Byte) (s : State) : (State.loadReply lo hi s).oracle = s.oracle := rfl
@[simp] theorem State.loadReply_bus (lo hi : Byte) (s : State) : (State.loadReply lo hi s).bus = s.bus := rfl
@[simp] theorem State.loadReply_inputs (lo hi : Byte) (s : State) : (State.loadReply lo hi s).inputs = s.inputs := rfl
@[simp] theorem State.loadReply_hostResult (lo hi : Byte) (s : State) : (State.loadReply lo hi s).hostResult = s.hostResult := rfl
@[simp] theorem State.loadReply_host (lo hi : Byte) (s : State) : (State.loadReply lo hi s).host = s.host := rfl

@[simp] theorem State.loadRead_devAddr (reg : Byte) (s : State) : (State.loadRead reg s).devAddr = s.devAddr := rfl
@[simp] theorem State.loadRead_busAddrByte (reg : Byte) (s : State) : (State.loadRead reg s).busAddrByte = s.busAddrByte := rfl
@[simp] theorem State.loadRead_crc (reg : Byte) (s : State) : (State.loadRead reg s).crc = s.crc := rfl
@[simp] theorem State.loadRead_frame (reg : Byte) (s : State) : (State.loadRead reg s).frame = s.frame := rfl
@[simp] theorem State.loadRead_rxl (reg : Byte) (s : State) : (State.loadRead reg s).rxl = s.rxl := rfl
@[simp] theorem State.loadRead_rxh (reg : Byte) (s : State) : (State.loadRead reg s).rxh = s.rxh := rfl
@[simp] theorem State.loadRead_rega (reg : Byte) (s : State) : (State.loadRead reg s).rega = reg := rfl
@[simp] theorem State.loadRead_word (reg : Byte) (s : State) : (State.loadRead reg s).word = s.word := rfl
@[simp] theorem State.loadRead_res (reg : Byte) (s : State) : (State.loadRead reg s).res = s.res := rfl
@[simp] theorem State.loadRead_idx (reg : Byte) (s : State) : (State.loadRead reg s).idx = s.idx := rfl
@[simp] theorem State.loadRead_bitcnt (reg : Byte) (s : State) : (State.loadRead reg s).bitcnt = s.bitcnt := rfl
@[simp] theorem State.loadRead_phase (reg : Byte) (s : State) : (State.loadRead reg s).phase = .load := rfl
@[simp] theorem State.loadRead_history (reg : Byte) (s : State) : (State.loadRead reg s).history = s.history := rfl
@[simp] theorem State.loadRead_completions (reg : Byte) (s : State) : (State.loadRead reg s).completions = s.completions := rfl
@[simp] theorem State.loadRead_awaiting (reg : Byte) (s : State) : (State.loadRead reg s).awaiting = s.awaiting := rfl
@[simp] theorem State.loadRead_draws (reg : Byte) (s : State) : (State.loadRead reg s).draws = s.draws := rfl
@[simp] theorem State.loadRead_oracle (reg : Byte) (s : State) : (State.loadRead reg s).oracle = s.oracle := rfl
@[simp] theorem State.loadRead_bus (reg : Byte) (s : State) : (State.loadRead reg s).bus = s.bus := rfl
@[simp] theorem State.loadRead_inputs (reg : Byte) (s : State) : (State.loadRead reg s).inputs = s.inputs := rfl
@[simp] theorem State.loadRead_hostResult (reg : Byte) (s : State) : (State.loadRead reg s).hostResult = s.hostResult := rfl
@[simp] theorem State.loadRead_host (reg : Byte) (s : State) : (State.loadRead reg s).host = s.host := rfl

@[simp] theorem State.complete_devAddr (r : ResWord) (s : State) : (State.complete r s).devAddr = s.devAddr := rfl
@[simp] theorem State.complete_busAddrByte (r : ResWord) (s : State) : (State.complete r s).busAddrByte = s.busAddrByte := rfl
@[simp] theorem State.complete_crc (r : ResWord) (s : State) : (State.complete r s).crc = s.crc := rfl
@[simp] theorem State.complete_frame (r : ResWord) (s : State) : (State.complete r s).frame = s.frame := rfl
@[simp] theorem State.complete_rxl (r : ResWord) (s : State) : (State.complete r s).rxl = s.rxl := rfl
@[simp] theorem State.complete_rxh (r : ResWord) (s : State) : (State.complete r s).rxh = s.rxh := rfl
@[simp] theorem State.complete_rega (r : ResWord) (s : State) : (State.complete r s).rega = s.rega := rfl
@[simp] theorem State.complete_word (r : ResWord) (s : State) : (State.complete r s).word = s.word := rfl
@[simp] theorem State.complete_res (r : ResWord) (s : State) : (State.complete r s).res = r := rfl
@[simp] theorem State.complete_idx (r : ResWord) (s : State) : (State.complete r s).idx = s.idx := rfl
@[simp] theorem State.complete_bitcnt (r : ResWord) (s : State) : (State.complete r s).bitcnt = s.bitcnt := rfl
@[simp] theorem State.complete_phase (r : ResWord) (s : State) : (State.complete r s).phase = .idle := rfl
@[simp] theorem State.complete_history (r : ResWord) (s : State) : (State.complete r s).history = s.history := rfl
@[simp] theorem State.complete_completions (r : ResWord) (s : State) : (State.complete r s).completions = s.completions ++ [r] := rfl
@[simp] theorem State.complete_awaiting (r : ResWord) (s : State) : (State.complete r s).awaiting = s.awaiting := rfl
@[simp] theorem State.complete_draws (r : ResWord) (s : State) : (State.complete r s).draws = s.draws := rfl
@[simp] theorem State.complete_oracle (r : ResWord) (s : State) : (State.complete r s).oracle = s.oracle := rfl
@[simp] theorem State.complete_bus (r : ResWord) (s : State) : (State.complete r s).bus = s.bus := rfl
@[simp] theorem State.complete_inputs (r : ResWord) (s : State) : (State.complete r s).inputs = s.inputs := rfl
@[simp] theorem State.complete_hostResult (r : ResWord) (s : State) : (State.complete r s).hostResult = s.hostResult := rfl
@[simp] theorem State.complete_host (r : ResWord) (s : State) : (State.complete r s).host = s.host := rfl

@[simp] theorem State.applyReset_devAddr (s : State) : (State.applyReset s).devAddr = s.devAddr := rfl
@[simp] theorem State.applyReset_busAddrByte (s : State) : (State.applyReset s).busAddrByte = s.busAddrByte := rfl
@[simp] theorem State.applyReset_crc (s : State) : (State.applyReset s).crc = 0 := rfl
@[simp] theorem State.applyReset_frame (s : State) : (State.applyReset s).frame = ⟨0, 0, 0, 0, 0⟩ := rfl
@[simp] theorem State.applyReset_rxl (s : State) : (State.applyReset s).rxl = 0 := rfl
@[simp] theorem State.applyReset_rxh (s : State) : (State.applyReset s).rxh = 0 := rfl
@[simp] theorem State.applyReset_rega (s : State) : (State.applyReset s).rega = 0 := rfl
@[simp] theorem State.applyReset_word (s : State) : (State.applyReset s).word = 0 := rfl
@[simp] theorem State.applyReset_res (s : State) : (State.applyReset s).res = 0 := rfl
@[simp] theorem State.applyReset_idx (s : State) : (State.applyReset s).idx = 0 := rfl
@[simp] theorem State.applyReset_bitcnt (s : State) : (State.applyReset s).bitcnt = 0 := rfl
@[simp] theorem State.applyReset_phase (s : State) : (State.applyReset s).phase = .idle := rfl
@[simp] theorem State.applyReset_history (s : State) : (State.applyReset s).history = s.history := rfl
@[simp] theorem State.applyReset_completions (s : State) : (State.applyReset s).completions = s.completions := rfl
@[simp] theorem State.applyReset_awaiting (s : State) : (State.applyReset s).awaiting = none := rfl
@[simp] theorem State.applyReset_draws (s : State) : (State.applyReset s).draws = s.draws := rfl
@[simp] theorem State.applyReset_oracle (s : State) : (State.applyReset s).oracle = s.oracle := rfl
@[simp] theorem State.applyReset_bus (s : State) : (State.applyReset s).bus = s.bus := rfl
@[simp] theorem State.applyReset_inputs (s : State) : (State.applyReset s).inputs = s.inputs := rfl
@[simp] theorem State.applyReset_hostResult (s : State) : (State.applyReset s).hostResult = s.hostResult := rfl
@[simp] theorem State.applyReset_host (s : State) : (State.applyReset s).host = s.host := rfl

@[simp] theorem State.present_devAddr (w : CmdWord) (s : State) : (State.present w s).devAddr = s.devAddr := rfl
@[simp] theorem State.present_busAddrByte (w : CmdWord) (s : State) : (State.present w s).busAddrByte = s.busAddrByte := rfl
@[simp] theorem State.present_crc (w : CmdWord) (s : State) : (State.present w s).crc = s.crc := rfl
@[simp] theorem State.present_frame (w : CmdWord) (s : State) : (State.present w s).frame = s.frame := rfl
@[simp] theorem State.present_rxl (w : CmdWord) (s : State) : (State.present w s).rxl = s.rxl := rfl
@[simp] theorem State.present_rxh (w : CmdWord) (s : State) : (State.present w s).rxh = s.rxh := rfl
@[simp] theorem State.present_rega (w : CmdWord) (s : State) : (State.present w s).rega = s.rega := rfl
@[simp] theorem State.present_word (w : CmdWord) (s : State) : (State.present w s).word = s.word := rfl
@[simp] theorem State.present_res (w : CmdWord) (s : State) : (State.present w s).res = s.res := rfl
@[simp] theorem State.present_idx (w : CmdWord) (s : State) : (State.present w s).idx = s.idx := rfl
@[simp] theorem State.present_bitcnt (w : CmdWord) (s : State) : (State.present w s).bitcnt = s.bitcnt := rfl
@[simp] theorem State.present_phase (w : CmdWord) (s : State) : (State.present w s).phase = s.phase := rfl
@[simp] theorem State.present_history (w : CmdWord) (s : State) : (State.present w s).history = s.history := rfl
@[simp] theorem State.present_completions (w : CmdWord) (s : State) : (State.present w s).completions = s.completions := rfl
@[simp] theorem State.present_awaiting (w : CmdWord) (s : State) : (State.present w s).awaiting = s.awaiting := rfl
@[simp] theorem State.present_draws (w : CmdWord) (s : State) : (State.present w s).draws = s.draws := rfl
@[simp] theorem State.present_oracle (w : CmdWord) (s : State) : (State.present w s).oracle = s.oracle := rfl
@[simp] theorem State.present_bus (w : CmdWord) (s : State) : (State.present w s).bus = s.bus := rfl
@[simp] theorem State.present_inputs (w : CmdWord) (s : State) : (State.present w s).inputs = .word w :: s.inputs := rfl
@[simp] theorem State.present_hostResult (w : CmdWord) (s : State) : (State.present w s).hostResult = s.hostResult := rfl
@[simp] theorem State.present_host (w : CmdWord) (s : State) : (State.present w s).host = s.host := rfl

end Sys2Proof.Machine
end

