-- ==== Sys2Proof/Laws/Codec.lean ====
section
/-! SUPPORT. What the checksum phase does to the state: the register transfers of R112 and R113 are the fold of R113. -/

namespace Sys2Proof.Machine

/-- `n` bit steps run the bit step `n` times and count them. -/
theorem State.bitTicks_eq (n : Nat) (s : State) :
    State.bitTicks n s = { s with crc := bitstep^[n] s.crc, bitcnt := s.bitcnt + BitVec.ofNat 4 n } := by
  induction n generalizing s with
  | zero => simp [State.bitTicks]
  | succ n ih =>
    simp only [State.bitTicks, ih, State.bitTick, Function.iterate_succ_apply]
    congr 1
    rw [BitVec.add_assoc]
    congr 1
    apply BitVec.eq_of_toNat_eq
    simp; omega

theorem bytestep_eq_iterate (c b : Byte) : bytestep c b = bitstep^[8] (c ^^^ b) := by
  simp only [Function.iterate_succ_apply, Function.iterate_zero_apply, bytestep]

/-- Absorbing a byte runs the byte step, leaves BITCNT at its bound and moves IDX on. -/
theorem State.absorb_eq (s : State) (b : Byte) :
    s.absorb b = { s with crc := bytestep s.crc b, bitcnt := 8, idx := s.idx + 1 } := by
  simp only [State.absorb, State.bitTicks_eq, bytestep_eq_iterate]
  rfl

/-- The CRC phase: F[4] and CRC hold the checksum of F[0] to F[3], IDX and BITCNT are at their bounds, nothing else moves but PHASE. -/
theorem State.checksum_eq (s : State) :
    s.checksum =
      { s with
        phase := .crc
        crc := crc8 s.frame.covered
        frame := { s.frame with c := crc8 s.frame.covered }
        idx := 4
        bitcnt := 8 } := by
  simp only [State.checksum, Frame.covered, List.foldl_cons, List.foldl_nil, State.absorb_eq, crc8]
  rfl

end Sys2Proof.Machine
end

