-- ==== Sys2Proof/Laws/Memory.lean ====
section
/-! SUPPORT. Words and their bytes, and the cells of the stub's array: every write keeps the canonical form, a read after a write to the
same place gives what was written, and a write leaves every other place alone. -/

namespace Sys2Proof.Machine

theorem lowByte_assembleWord (hi lo : Byte) : lowByte (assembleWord hi lo) = lo := by
  apply BitVec.eq_of_getLsbD_eq
  intro i hi
  simp only [lowByte, assembleWord, BitVec.getLsbD_extractLsb', BitVec.getLsbD_or, BitVec.getLsbD_shiftLeft, BitVec.getLsbD_setWidth]
  simp [show i < 8 from hi, show i < 16 by omega]

theorem highByte_assembleWord (hi lo : Byte) : highByte (assembleWord hi lo) = hi := by
  apply BitVec.eq_of_getLsbD_eq
  intro i hi
  simp only [highByte, assembleWord, BitVec.getLsbD_extractLsb', BitVec.getLsbD_or, BitVec.getLsbD_shiftLeft, BitVec.getLsbD_setWidth]
  simp [show i < 8 from hi, show i < 16 by omega, show 8 + i < 16 by omega]

theorem Memory.wfFrom_weaken {lo lo' : Nat} {m : Memory} (h : lo ≤ lo') (hm : Memory.wfFrom lo' m = true) :
    Memory.wfFrom lo m = true := by
  cases m with
  | nil => rfl
  | cons p m =>
    simp only [Memory.wfFrom, Bool.and_eq_true, decide_eq_true_eq] at hm ⊢
    exact ⟨⟨⟨by omega, hm.1.1.2⟩, hm.1.2⟩, hm.2⟩

theorem Memory.wfFrom_cons {lo a : Nat} {b : Byte} {m : Memory} (hlo : lo ≤ a) (ha : a < 512)
    (hm : Memory.wfFrom (a + 1) m = true) : Memory.wfFrom lo (Memory.cons a b m) = true := by
  unfold Memory.cons
  split
  · exact Memory.wfFrom_weaken (by omega) hm
  · simp [Memory.wfFrom, *]

theorem Memory.wfFrom_write {a : Nat} {b : Byte} (ha : a < 512) {m : Memory} :
    ∀ {lo : Nat}, lo ≤ a → Memory.wfFrom lo m = true → Memory.wfFrom lo (Memory.write a b m) = true := by
  induction m with
  | nil => intro lo hlo _; exact Memory.wfFrom_cons hlo ha rfl
  | cons p m ih =>
    obtain ⟨x, v⟩ := p
    intro lo hlo hm
    simp only [Memory.wfFrom, Bool.and_eq_true, decide_eq_true_eq] at hm
    obtain ⟨⟨⟨hx, hx'⟩, hv⟩, hm⟩ := hm
    unfold Memory.write
    split
    · exact Memory.wfFrom_cons hlo ha (by simp [Memory.wfFrom, *])
    · split
      · subst a; exact Memory.wfFrom_cons hlo ha hm
      · simp only [Memory.wfFrom, Bool.and_eq_true, decide_eq_true_eq]
        exact ⟨⟨⟨hx, hx'⟩, hv⟩, ih (by omega) hm⟩

/-- Every write of a cell keeps the canonical form. -/
theorem Memory.wf_write {a : Nat} {b : Byte} {m : Memory} (ha : a < 512) (hm : m.wf = true) : Memory.wf (Memory.write a b m) = true :=
  Memory.wfFrom_write ha (Nat.zero_le a) hm

/-- A write of a word keeps the canonical form. -/
theorem Memory.wf_writeWord {m : Memory} (reg : Byte) (w : Word) (hm : m.wf = true) : (m.writeWord reg w).wf = true :=
  have h := reg.isLt
  Memory.wf_write (by omega) (Memory.wf_write (by omega) hm)

theorem Memory.read_below {lo a : Nat} {m : Memory} (hm : Memory.wfFrom lo m = true) (h : a < lo) :
    Memory.read a m = unlistedByte := by
  induction m generalizing lo with
  | nil => rfl
  | cons p m ih =>
    simp only [Memory.wfFrom, Bool.and_eq_true, decide_eq_true_eq] at hm
    simp only [Memory.read]
    rw [if_neg (by omega)]
    exact ih hm.2 (by omega)

theorem Memory.read_cons {lo a c : Nat} {b : Byte} {m : Memory} (hm : Memory.wfFrom lo m = true) (hlo : a < lo) :
    Memory.read c (Memory.cons a b m) = if c = a then b else Memory.read c m := by
  unfold Memory.cons
  split
  · split
    · next hb hc => rw [hc, hb, Memory.read_below hm hlo]
    · rfl
  · rfl

theorem Memory.read_write_from {lo a c : Nat} {b : Byte} {m : Memory} (hm : Memory.wfFrom lo m = true) :
    Memory.read c (Memory.write a b m) = if c = a then b else Memory.read c m := by
  induction m generalizing lo with
  | nil => exact Memory.read_cons (lo := a + 1) rfl (by omega)
  | cons p m ih =>
    obtain ⟨x, v⟩ := p
    have hm' := hm
    simp only [Memory.wfFrom, Bool.and_eq_true, decide_eq_true_eq] at hm
    unfold Memory.write
    split
    · exact Memory.read_cons (lo := x) (by simp [Memory.wfFrom, hm.1.1.2, hm.1.2, hm.2]) ‹_›
    · split
      · next h => rw [Memory.read_cons hm.2 (by omega)]; simp only [Memory.read, ← h]; split <;> rfl
      · next h =>
        simp only [Memory.read, ih hm.2]
        by_cases hc : c = a
        · subst hc; simp [h]
        · simp [hc]

/-- A read gives what was last written there, and a write leaves every other address alone. -/
theorem Memory.read_write {m : Memory} (hm : m.wf = true) (a c : Nat) (b : Byte) :
    Memory.read c (Memory.write a b m) = if c = a then b else Memory.read c m :=
  Memory.read_write_from hm

theorem Memory.wf_read_bound {lo a : Nat} {m : Memory} (hm : Memory.wfFrom lo m = true) (ha : 512 ≤ a) :
    Memory.read a m = unlistedByte := by
  induction m generalizing lo with
  | nil => rfl
  | cons p m ih =>
    simp only [Memory.wfFrom, Bool.and_eq_true, decide_eq_true_eq] at hm
    simp only [Memory.read]
    rw [if_neg (by omega)]
    exact ih hm.2

end Sys2Proof.Machine
end

