-- ==== Sys2Proof/Laws/PerInstr.lean ====
section
/-! SUPPORT. Statements made for every operation as syntax, one lemma per constructor. -/

namespace Sys2Proof.Laws

/-- An operation puts at least one command to the block, whatever the host's parameters, each one of the five commands that have a
word of their own (43_register_interface.md R180, 30_encoding.md R95); a command puts itself. -/
def Expansion.Statement (i : Instr) : Prop :=
  ∀ p : HostParams, expand p i ≠ [] ∧ (∀ j ∈ expand p i, j.isCommand = true ∧ ∃ w, encode j = some w) ∧
    (i.isCommand = true → expand p i = [i])

theorem Expansion.of_write {i : Instr} {reg : HostParams → Byte} {word : HostParams → Word} (hc : i.isCommand = false)
    (h : ∀ p, expand p i = [.wrreg (reg p) (word p)]) : Expansion.Statement i := fun p => by
  exact ⟨by simp [h], by simp [h, Instr.isCommand, encode], by simp [hc]⟩

theorem Expansion.of_read {i : Instr} {reg : HostParams → Byte} (hc : i.isCommand = false)
    (h : ∀ p, expand p i = [.rdreg (reg p)]) : Expansion.Statement i := fun p => by
  exact ⟨by simp [h], by simp [h, Instr.isCommand, encode], by simp [hc]⟩

theorem Expansion.crc8 (b0 b1 b2 b3 : Byte) : Expansion.Statement (.crc8 b0 b1 b2 b3) := fun p => by
  simp [expand, Instr.isCommand, encode]

theorem Expansion.encw (reg : Byte) (word : Word) : Expansion.Statement (.encw reg word) := fun p => by
  simp [expand, Instr.isCommand, encode]

theorem Expansion.decr (lo hi : Byte) : Expansion.Statement (.decr lo hi) := fun p => by
  simp [expand, Instr.isCommand, encode]

theorem Expansion.wrreg (reg : Byte) (word : Word) : Expansion.Statement (.wrreg reg word) := fun p => by
  simp [expand, Instr.isCommand, encode]

theorem Expansion.rdreg (reg : Byte) : Expansion.Statement (.rdreg reg) := fun p => by
  simp [expand, Instr.isCommand, encode]

theorem Expansion.init : Expansion.Statement .init := fun p => by simp [expand, Instr.isCommand, encode]

theorem Expansion.getVersion : Expansion.Statement .getVersion := of_read rfl fun _ => rfl

theorem Expansion.initRsoc : Expansion.Statement .initRsoc := of_write rfl fun _ => rfl

theorem Expansion.getVoltage : Expansion.Statement .getVoltage := of_read rfl fun _ => rfl

theorem Expansion.getIte : Expansion.Statement .getIte := of_read rfl fun _ => rfl

theorem Expansion.getRsoc : Expansion.Statement .getRsoc := of_read rfl fun _ => rfl

theorem Expansion.getTemp : Expansion.Statement .getTemp := of_read rfl fun _ => rfl

theorem Expansion.setTempMode (m : Word) : Expansion.Statement (.setTempMode m) := of_write rfl fun _ => rfl

theorem Expansion.setCapacity (p : Word) : Expansion.Statement (.setCapacity p) := of_write rfl fun _ => rfl

theorem Expansion.setAlarmRsoc (pct : Word) : Expansion.Statement (.setAlarmRsoc pct) := of_write rfl fun _ => rfl

theorem Expansion.setAlarmVolt (v : Volts) : Expansion.Statement (.setAlarmVolt v) := of_write rfl fun _ => rfl

theorem Expansion.setPowerMode (m : Word) : Expansion.Statement (.setPowerMode m) := of_write rfl fun _ => rfl

theorem Expansion.setProfile (i : Word) : Expansion.Statement (.setProfile i) := of_write rfl fun _ => rfl

theorem Expansion.getThermB : Expansion.Statement .getThermB := of_read rfl fun _ => rfl

theorem Expansion.setThermB (b : Word) : Expansion.Statement (.setThermB b) := of_write rfl fun _ => rfl

end Sys2Proof.Laws
end

