-- ==== Sys2Proof/Laws/Transport.lean ====
section
/-! SUPPORT. What a transport call can do, and what the two transactions do when their six calls return. -/

namespace Sys2Proof.Machine

/-- A call either returns, appending its event and nothing else to H, or leaves the block waiting in it with
the transport's own state unknown. -/
theorem State.call_cases (s : State) (c : Call) :
    (∃ tf b, (s.oracle.answer c s.draws).1 = .returns tf b ∧
      s.call c = .ok (b, { s with
        oracle := (s.oracle.answer c s.draws).2
        draws := s.draws + 1
        bus := s.bus.after c tf s.draws
        history := s.history ++ [⟨c.event b, tf⟩] })) ∨
    ((s.oracle.answer c s.draws).1 = .never ∧
      s.call c = .error { s with
        oracle := (s.oracle.answer c s.draws).2, draws := s.draws + 1, bus := Bus.unknown s.draws, awaiting := some c }) := by
  rcases h : (s.oracle.answer c s.draws).1 with ⟨tf, b⟩ | _
  · exact .inl ⟨tf, b, rfl, by simp only [State.call, h]⟩
  · exact .inr ⟨rfl, by simp only [State.call, h]⟩

theorem State.call_returns {s : State} {c : Call} {tf : Bool} {b : Byte}
    (h : (s.oracle.answer c s.draws).1 = .returns tf b) :
    s.call c = .ok (b, { s with
      oracle := (s.oracle.answer c s.draws).2
      draws := s.draws + 1
      bus := s.bus.after c tf s.draws
      history := s.history ++ [⟨c.event b, tf⟩] }) := by
  obtain ⟨tf', b', h', e⟩ | ⟨h', -⟩ := s.call_cases c
  · rw [h] at h'; cases h'; exact e
  · rw [h] at h'; cases h'

theorem State.call_never {s : State} {c : Call} (h : (s.oracle.answer c s.draws).1 = .never) :
    s.call c = .error { s with
      oracle := (s.oracle.answer c s.draws).2, draws := s.draws + 1, bus := Bus.unknown s.draws, awaiting := some c } := by
  obtain ⟨tf', b', h', -⟩ | ⟨-, e⟩ := s.call_cases c
  · rw [h] at h'; cases h'
  · exact e

theorem State.tell_returns {s : State} {c : Call} {tf : Bool} {b : Byte}
    (h : (s.oracle.answer c s.draws).1 = .returns tf b) :
    s.tell c = .ok { s with
      oracle := (s.oracle.answer c s.draws).2
      draws := s.draws + 1
      bus := s.bus.after c tf s.draws
      history := s.history ++ [⟨c.event b, tf⟩] } := by
  simp only [State.tell, State.call_returns h]; rfl

theorem State.tell_never {s : State} {c : Call} (h : (s.oracle.answer c s.draws).1 = .never) :
    s.tell c = .error { s with
      oracle := (s.oracle.answer c s.draws).2, draws := s.draws + 1, bus := Bus.unknown s.draws, awaiting := some c } := by
  simp only [State.tell, State.call_never h]; rfl

/-- The six calls of a write, when they return. -/
theorem State.sendWrite_returns {s : State} {f0 f1 f2 f3 f4 f5 : Bool} {b0 b1 b2 b3 b4 b5 : Byte}
    (h : s.oracle.replies s.draws
        [.begin s.devAddr, .write s.frame.r, .write s.frame.l, .write s.frame.h, .write s.frame.c, .finish .stop] =
      [.returns f0 b0, .returns f1 b1, .returns f2 b2, .returns f3 b3, .returns f4 b4, .returns f5 b5]) :
    s.sendWrite = .ok { s with
      phase := .wrSend
      idx := 4
      draws := s.draws + 6
      oracle := s.oracle.afterCalls s.draws
        [.begin s.devAddr, .write s.frame.r, .write s.frame.l, .write s.frame.h, .write s.frame.c, .finish .stop]
      bus := s.bus.afterCalls s.draws
        [(.begin s.devAddr, f0), (.write s.frame.r, f1), (.write s.frame.l, f2), (.write s.frame.h, f3), (.write s.frame.c, f4),
          (.finish .stop, f5)]
      history := s.history ++
        [⟨.begin s.devAddr, f0⟩, ⟨.write s.frame.r, f1⟩, ⟨.write s.frame.l, f2⟩, ⟨.write s.frame.h, f3⟩, ⟨.write s.frame.c, f4⟩,
          ⟨.finish .stop, f5⟩] } := by
  simp only [Oracle.replies, List.cons.injEq, and_true] at h
  obtain ⟨h0, h1, h2, h3, h4, h5⟩ := h
  simp only [State.sendWrite, State.sendByte, State.enter, State.tell, State.call, h0, h1, h2, h3, h4, h5, bind, Except.bind,
    Oracle.afterCalls, Bus.afterCalls, Call.event, List.append_assoc, List.cons_append, List.nil_append]

/-- The write transaction, when its six calls return. -/
theorem State.writeRegister_returns {s : State} {reg : Byte} {w : Word} {f0 f1 f2 f3 f4 f5 : Bool} {b0 b1 b2 b3 b4 b5 : Byte}
    (h : s.oracle.replies s.draws (writeCalls s.devAddr s.busAddrByte reg w) =
      [.returns f0 b0, .returns f1 b1, .returns f2 b2, .returns f3 b3, .returns f4 b4, .returns f5 b5]) :
    s.writeRegister reg w = .ok (s.afterWrite reg w f0 f1 f2 f3 f4 f5) := by
  have e := State.sendWrite_returns (s := (s.loadWrite reg w).checksum) (f0 := f0) (f1 := f1) (f2 := f2) (f3 := f3) (f4 := f4)
    (f5 := f5) (b0 := b0) (b1 := b1) (b2 := b2) (b3 := b3) (b4 := b4) (b5 := b5) (by
      simpa only [State.checksum_eq, State.loadWrite, Frame.filled, Frame.covered, writeCalls, writeChecksum] using h)
  simp only [State.writeRegister, e, bind, Except.bind]
  simp only [State.checksum_eq, State.complete, State.enter, State.loadWrite, Frame.filled, Frame.covered, State.afterWrite,
    writeFrame, writeChecksum, writeCalls, List.zip_cons_cons, List.zip_nil_right]

/-- The read transaction, when its six calls return. -/
theorem State.readRegister_returns {s : State} {reg lo hi : Byte} {f0 f1 f2 f3 f4 f5 : Bool} {b0 b1 b2 b3 : Byte}
    (h : s.oracle.replies s.draws (readCalls s.devAddr reg) =
      [.returns f0 b0, .returns f1 b1, .returns f2 b2, .returns f3 b3, .returns f4 lo, .returns f5 hi]) :
    s.readRegister reg = .ok (s.afterRead reg lo hi f0 f1 f2 f3 f4 f5) := by
  simp only [readCalls, Oracle.replies, List.cons.injEq, and_true] at h
  obtain ⟨h0, h1, h2, h3, h4, h5⟩ := h
  simp only [State.readRegister, State.loadRead, State.sendAddress, State.fetchReply, State.enter, State.tell, State.call, h0, h1,
    h2, h3, h4, h5, bind, Except.bind, Config.readLen, State.completeWord, State.complete, Call.event, List.append_assoc,
    List.cons_append, List.nil_append, State.afterRead, readCalls, Oracle.afterCalls, Bus.afterCalls, List.zip_cons_cons,
    List.zip_nil_right]

/-- Everything the write transaction can do: its six calls return and it completes, or it waits in the first that does not. -/
theorem State.writeRegister_cases (s : State) (reg : Byte) (w : Word) :
    (∃ f0 f1 f2 f3 f4 f5 b0 b1 b2 b3 b4 b5,
      s.oracle.replies s.draws (writeCalls s.devAddr s.busAddrByte reg w) =
        [.returns f0 b0, .returns f1 b1, .returns f2 b2, .returns f3 b3, .returns f4 b4, .returns f5 b5] ∧
      s.writeRegister reg w = .ok (s.afterWrite reg w f0 f1 f2 f3 f4 f5)) ∨
    (∃ rs : List (Bool × Byte), rs.length < 6 ∧
      (s.oracle.replies s.draws (writeCalls s.devAddr s.busAddrByte reg w)).take (rs.length + 1) =
        rs.map (fun p => Answer.returns p.1 p.2) ++ [.never] ∧
      s.writeRegister reg w = .error (s.waitingWrite reg w rs)) := by
  have hc : (s.loadWrite reg w).checksum = { s.loadWrite reg w with
      phase := .crc, frame := writeFrame s.busAddrByte reg w, crc := writeChecksum s.busAddrByte reg w, idx := 4, bitcnt := 8 } := by
    rw [State.checksum_eq]; rfl
  obtain ⟨a0, a1, a2, a3, a4, a5, h⟩ : ∃ a0 a1 a2 a3 a4 a5,
      s.oracle.replies s.draws (writeCalls s.devAddr s.busAddrByte reg w) = [a0, a1, a2, a3, a4, a5] := ⟨_, _, _, _, _, _, rfl⟩
  have wait : ∀ rs : List (Bool × Byte), rs.length < 6 →
      [a0, a1, a2, a3, a4, a5].take (rs.length + 1) = rs.map (fun p => Answer.returns p.1 p.2) ++ [.never] →
      s.writeRegister reg w = .error (s.waitingWrite reg w rs) := by
    intro rs hl ht
    simp only [State.writeRegister, hc, State.waitingWrite, writeFrame]
    simp only [writeCalls, Oracle.replies, List.cons.injEq, and_true] at h ⊢
    generalize writeChecksum s.busAddrByte reg w = ck at h ⊢
    obtain ⟨h0, h1, h2, h3, h4, h5⟩ := h
    rcases rs with _ | ⟨p0, _ | ⟨p1, _ | ⟨p2, _ | ⟨p3, _ | ⟨p4, _ | ⟨p5, rs⟩⟩⟩⟩⟩⟩ <;>
      simp only [List.length_cons, List.length_nil, List.take_succ_cons, List.take_zero, List.map_cons, List.map_nil,
        List.cons_append, List.nil_append, List.cons.injEq, and_true, zero_add, Nat.reduceAdd] at ht
    all_goals try obtain ⟨rfl, rfl, rfl, rfl, rfl, rfl⟩ := ht
    all_goals try
      (simp [State.sendWrite, State.sendByte, State.enter, State.loadWrite, State.tell, State.call, h0, h1, h2, h3, h4, h5, bind,
        Except.bind, Oracle.afterCalls, Call.event, Frame.filled]; done)
    exact absurd hl (by simp)
  rcases a0 with ⟨f0, b0⟩ | _
  swap
  · exact .inr ⟨[], by decide, by rw [h]; rfl, wait [] (by decide) rfl⟩
  rcases a1 with ⟨f1, b1⟩ | _
  swap
  · exact .inr ⟨[(f0, b0)], by simp, by rw [h]; rfl, wait _ (by simp) rfl⟩
  rcases a2 with ⟨f2, b2⟩ | _
  swap
  · exact .inr ⟨[(f0, b0), (f1, b1)], by simp, by rw [h]; rfl, wait _ (by simp) rfl⟩
  rcases a3 with ⟨f3, b3⟩ | _
  swap
  · exact .inr ⟨[(f0, b0), (f1, b1), (f2, b2)], by simp, by rw [h]; rfl, wait _ (by simp) rfl⟩
  rcases a4 with ⟨f4, b4⟩ | _
  swap
  · exact .inr ⟨[(f0, b0), (f1, b1), (f2, b2), (f3, b3)], by simp, by rw [h]; rfl, wait _ (by simp) rfl⟩
  rcases a5 with ⟨f5, b5⟩ | _
  swap
  · exact .inr ⟨[(f0, b0), (f1, b1), (f2, b2), (f3, b3), (f4, b4)], by simp, by rw [h]; rfl, wait _ (by simp) rfl⟩
  exact .inl ⟨f0, f1, f2, f3, f4, f5, b0, b1, b2, b3, b4, b5, h, State.writeRegister_returns h⟩

/-- Everything the read transaction can do: its six calls return and it completes, or it waits in the first that does not. -/
theorem State.readRegister_cases (s : State) (reg : Byte) :
    (∃ f0 f1 f2 f3 f4 f5 b0 b1 b2 b3 b4 b5,
      s.oracle.replies s.draws (readCalls s.devAddr reg) =
        [.returns f0 b0, .returns f1 b1, .returns f2 b2, .returns f3 b3, .returns f4 b4, .returns f5 b5] ∧
      s.readRegister reg = .ok (s.afterRead reg b4 b5 f0 f1 f2 f3 f4 f5)) ∨
    (∃ rs : List (Bool × Byte), rs.length < 6 ∧
      (s.oracle.replies s.draws (readCalls s.devAddr reg)).take (rs.length + 1) =
        rs.map (fun p => Answer.returns p.1 p.2) ++ [.never] ∧
      s.readRegister reg = .error (s.waitingRead reg rs)) := by
  obtain ⟨a0, a1, a2, a3, a4, a5, h⟩ : ∃ a0 a1 a2 a3 a4 a5,
      s.oracle.replies s.draws (readCalls s.devAddr reg) = [a0, a1, a2, a3, a4, a5] := ⟨_, _, _, _, _, _, rfl⟩
  have wait : ∀ rs : List (Bool × Byte), rs.length < 6 →
      [a0, a1, a2, a3, a4, a5].take (rs.length + 1) = rs.map (fun p => Answer.returns p.1 p.2) ++ [.never] →
      s.readRegister reg = .error (s.waitingRead reg rs) := by
    intro rs hl ht
    simp only [readCalls, Oracle.replies, List.cons.injEq, and_true] at h
    obtain ⟨h0, h1, h2, h3, h4, h5⟩ := h
    rcases rs with _ | ⟨p0, _ | ⟨p1, _ | ⟨p2, _ | ⟨p3, _ | ⟨p4, _ | ⟨p5, rs⟩⟩⟩⟩⟩⟩ <;>
      simp only [List.length_cons, List.length_nil, List.take_succ_cons, List.take_zero, List.map_cons, List.map_nil,
        List.cons_append, List.nil_append, List.cons.injEq, and_true, zero_add, Nat.reduceAdd] at ht
    all_goals try obtain ⟨rfl, rfl, rfl, rfl, rfl, rfl⟩ := ht
    all_goals try
      (simp [State.readRegister, State.waitingRead, readCalls, State.sendAddress, State.fetchReply, State.enter, State.loadRead,
        State.tell, State.call, h0, h1, h2, h3, h4, h5, bind, Except.bind, Oracle.afterCalls, Call.event,
        Config.readLen]; done)
    exact absurd hl (by simp)
  rcases a0 with ⟨f0, b0⟩ | _
  swap
  · exact .inr ⟨[], by decide, by rw [h]; rfl, wait [] (by decide) rfl⟩
  rcases a1 with ⟨f1, b1⟩ | _
  swap
  · exact .inr ⟨[(f0, b0)], by simp, by rw [h]; rfl, wait _ (by simp) rfl⟩
  rcases a2 with ⟨f2, b2⟩ | _
  swap
  · exact .inr ⟨[(f0, b0), (f1, b1)], by simp, by rw [h]; rfl, wait _ (by simp) rfl⟩
  rcases a3 with ⟨f3, b3⟩ | _
  swap
  · exact .inr ⟨[(f0, b0), (f1, b1), (f2, b2)], by simp, by rw [h]; rfl, wait _ (by simp) rfl⟩
  rcases a4 with ⟨f4, b4⟩ | _
  swap
  · exact .inr ⟨[(f0, b0), (f1, b1), (f2, b2), (f3, b3)], by simp, by rw [h]; rfl, wait _ (by simp) rfl⟩
  rcases a5 with ⟨f5, b5⟩ | _
  swap
  · exact .inr ⟨[(f0, b0), (f1, b1), (f2, b2), (f3, b3), (f4, b4)], by simp, by rw [h]; rfl, wait _ (by simp) rfl⟩
  exact .inl ⟨f0, f1, f2, f3, f4, f5, b0, b1, b2, b3, b4, b5, h, State.readRegister_returns h⟩

end Sys2Proof.Machine
end

