-- ==== Sys2Proof/Tests/Slice0.lean ====
section
/-! SUPPORT. Tests on fixed values, their expected results from the spec (95_test_vectors.md by section, or the rule named), and for
every obligation with hypotheses a state and operands that meet them. -/

namespace Sys2Proof.Tests

open Sys2Proof Sys2Proof.Machine

/-! ### What the tests are run on -/

/-- The illustrative parameters P-EX (95_test_vectors.md section 0). -/
def hostEx : HostParams where
  regVersion := 0x11
  regRsocInit := 0x07
  regCellVoltage := 0x09
  regIte := 0x0F
  regRsoc := 0x0D
  regCellTemp := 0x08
  regStatusBit := 0x16
  regApa := 0x0B
  regAlarmRsoc := 0x13
  regAlarmVoltage := 0x14
  regPowerMode := 0x15
  regProfile := 0x12
  regThermB := 0x06
  pmOperate := 0x0001
  pmSleep := 0x0002
  tmThermistor := 0x0001
  tmOther := 0x0000
  apaDefault := 0x002D
  apaOthers := []
  profileIndices := [0x0001]

/-- Reset, with P-EX and a transport that gives these answers. -/
def idleWith (answers : List Answer) : State := { State.reset with oracle := .free answers, host := hostEx }

/-- `n` calls that return, with this flag. -/
def returned (n : Nat) (tf : Bool) : List Answer := List.replicate n (.returns tf 0)

/-- A read's six answers, with the flag of the first four. -/
def reply (tf : Bool) (lo hi : Byte) : List Answer := returned 4 tf ++ [.returns false lo, .returns false hi]

/-- Reset, with P-EX and the stub holding these cells. -/
def stubWith (addrByte : Byte) (mem : Memory) : State :=
  { State.reset with oracle := .stub ⟨addrByte, 0, mem, [], []⟩, host := hostEx }

/-- The outcome is a next state of which `p` holds. -/
def completes (o : Host.Outcome State Fault Refusal) (p : State → Bool) : Bool :=
  match o with
  | .next t => p t
  | .fault _ => false
  | .refused _ => false

/-- The outcome is this refusal. -/
def refuses (o : Host.Outcome State Fault Refusal) (r : Refusal) : Bool :=
  match o with
  | .refused q => q == r
  | .next _ => false
  | .fault _ => false

/-- The outcome is this fault. -/
def faults (o : Host.Outcome State Fault Refusal) (f : Fault) : Bool :=
  match o with
  | .fault g => g == f
  | .next _ => false
  | .refused _ => false

/-- The state of an outcome. -/
def after (o : Host.Outcome State Fault Refusal) : State :=
  match o with
  | .next t => t
  | .fault _ => State.reset
  | .refused _ => State.reset

/-- A write's events, none flagged (95_test_vectors.md section 2.6). -/
def writeEvents (r l h c : Byte) (tf : Bool) : List Logged :=
  [⟨.begin 0x0B, tf⟩, ⟨.write r, tf⟩, ⟨.write l, tf⟩, ⟨.write h, tf⟩, ⟨.write c, tf⟩, ⟨.finish .stop, tf⟩]

/-- A read's events (95_test_vectors.md section 2.7), with the flag of the first four. -/
def readEvents (r lo hi : Byte) (tf : Bool) : List Logged :=
  [⟨.begin 0x0B, tf⟩, ⟨.write r, tf⟩, ⟨.finish .nostop, tf⟩, ⟨.request 0x0B 2, tf⟩, ⟨.read lo, false⟩, ⟨.read hi, false⟩]

/-! ### Well-formedness -/

theorem test_volts_zero_denominator_refused : (Instr.setAlarmVolt (.finite 37 0)).wellFormed = false := by decide

theorem test_volts_unreduced_refused : (Instr.setAlarmVolt (.finite 74 20)).wellFormed = false := by decide

theorem test_volts_canonical_accepted :
    (Instr.setAlarmVolt (.finite 37 10)).wellFormed = true ∧ (Instr.setAlarmVolt (.finite (-37) 10)).wellFormed = true ∧
      (Instr.setAlarmVolt (.finite 0 1)).wellFormed = true ∧ (Instr.setAlarmVolt .notANumber).wellFormed = true := by decide

theorem test_ill_formed_step_refused :
    refuses (step { idleWith [] with inputs := [.op (.setAlarmVolt (.finite 0 0))] }) .illFormed = true := by decide

/-! ### Decoding, from words written out bit by bit: op, then the argument (30_encoding.md section 4) -/

theorem test_decode_crc8 :
    decode (0b001#3 ++ 0b00010110#8 ++ 0b00000001#8 ++ 0b10000000#8 ++ 0b11101111#8) = .ok (.crc8 0x16 0x01 0x80 0xEF) := by decide

theorem test_decode_encw :
    decode (0b010#3 ++ 0b00000000#8 ++ 0b00010100#8 ++ 0b0000111001110100#16) = .ok (.encw 0x14 3700) := by decide

theorem test_decode_decr :
    decode (0b011#3 ++ 0b0000000000000000#16 ++ 0b00001110#8 ++ 0b01110100#8) = .ok (.decr 0x74 0x0E) := by decide

theorem test_decode_wrreg :
    decode (0b100#3 ++ 0b00000000#8 ++ 0b00000111#8 ++ 0b1010101001010101#16) = .ok (.wrreg 0x07 0xAA55) := by decide

theorem test_decode_rdreg :
    decode (0b101#3 ++ 0b00000000#8 ++ 0b11111111#8 ++ 0b0000000000000000#16) = .ok (.rdreg 0xFF) := by decide

/-- 95_test_vectors.md section 2.9, the refused words. -/
theorem test_decode_reserved_op :
    decode 0x000000000 = .error .reservedOp ∧ decode 0x0FFFFFFFF = .error .reservedOp ∧ decode 0x600000000 = .error .reservedOp ∧
      decode 0x700000000 = .error .reservedOp ∧ decode 0x7FFFFFFFF = .error .reservedOp := by decide

theorem test_decode_must_be_zero :
    decode 0x201150001 = .error .mustBeZero ∧ decode 0x280150001 = .error .mustBeZero ∧ decode 0x300011234 = .error .mustBeZero ∧
      decode 0x3FFFF1234 = .error .mustBeZero ∧ decode 0x401150001 = .error .mustBeZero ∧ decode 0x500090001 = .error .mustBeZero ∧
      decode 0x500098000 = .error .mustBeZero ∧ decode 0x501090000 = .error .mustBeZero := by decide

/-- 95_test_vectors.md sections 2.3 to 2.7, command words. -/
theorem test_encode_words :
    encode (.crc8 0xDE 0xAD 0xBE 0xEF) = some 0x1DEADBEEF ∧ encode (.encw 0x07 0xAA55) = some 0x20007AA55 ∧
      encode (.decr 0xE8 0x03) = some 0x3000003E8 ∧ encode (.wrreg 0x0B 0x002D) = some 0x4000B002D ∧
      encode (.rdreg 0xFF) = some 0x500FF0000 ∧ encode .init = none := by decide

/-- A command word in five whole bytes: the five bits above bit 34 are not part of it (log 23). -/
theorem test_table_word :
    decodeTableWord 35 0x400150001 = some (.wrreg 0x15 0x0001) ∧ decodeTableWord 40 0xF500090000 = some (.rdreg 0x09) ∧
      decodeTableWord 40 0x600000000 = none := by decide

/-- A named operation's row carries the code of the command it is (opcode_table.json): the word decodes to that command. -/
theorem test_named_rows_decode_to_commands :
    decodeTableWord 35 0x400000000 = some (.wrreg 0x00 0x0000) ∧ decodeTableWord 35 0x500000000 = some (.rdreg 0x00) := by decide

/-! ### The checksum (95_test_vectors.md sections 2.1 and 2.3) -/

theorem test_bitstep :
    bitstep 0x00 = 0x00 ∧ bitstep 0x01 = 0x02 ∧ bitstep 0x40 = 0x80 ∧ bitstep 0x7F = 0xFE ∧ bitstep 0x80 = 0x07 ∧
      bitstep 0x81 = 0x05 ∧ bitstep 0x83 = 0x01 ∧ bitstep 0xFF = 0xF9 := by decide

theorem test_bytestep_trace :
    bytestep 0x00 0x16 = 0x62 ∧ bytestep 0x62 0x00 = 0x29 ∧ bytestep 0x29 0x00 = 0xDF ∧ bytestep 0xDF 0x00 = 0x13 ∧
      bytestep 0x62 0x14 = 0x45 ∧ bytestep 0x45 0x74 = 0x97 ∧ bytestep 0x97 0x0E = 0xC6 := by decide +kernel

theorem test_crc8_lengths :
    crc8 [] = 0x00 ∧ crc8 [0x01] = 0x07 ∧ crc8 [0x80] = 0x89 ∧ crc8 [0xFF] = 0xF3 ∧ crc8 [0x16, 0x15, 0x01] = 0xCE ∧
      crc8 [0x16, 0x15, 0x01, 0x00, 0x64] = 0x00 ∧ crc8 [0x16, 0x15, 0x11, 0x00, 0x64] = 0xA2 := by decide +kernel

/-! ### The commands -/

theorem test_crc8_example :
    completes (exec (.crc8 0x16 0x00 0x00 0x00) State.reset)
      (fun t => t.res == 0x00000013 && t.frame == ⟨0x16, 0x00, 0x00, 0x00, 0x13⟩ && t.history == []) = true := by decide +kernel

theorem test_crc8_order :
    completes (exec (.crc8 0x01 0x02 0x03 0x04) State.reset) (fun t => t.res == 0x000000E3) = true := by decide +kernel

theorem test_encw_sentinel :
    completes (exec (.encw 0x07 0xAA55) State.reset)
      (fun t => t.res == 0x0755AA17 && t.frame.bytes == [0x16, 0x07, 0x55, 0xAA, 0x17] && t.history == []) = true := by decide +kernel

/-- The register address may equal the bus-address byte: both are absorbed. -/
theorem test_encw_reg_is_bus_byte :
    completes (exec (.encw 0x16 0x0001) State.reset) (fun t => t.res == 0x160100D9) = true := by decide +kernel

theorem test_decr_order : completes (exec (.decr 0x12 0x34) State.reset) (fun t => t.res == 0x00003412) = true := by decide

theorem test_decr_unsigned : completes (exec (.decr 0x00 0x80) State.reset) (fun t => t.res == 0x00008000) = true := by decide

theorem test_wrreg_events :
    completes (exec (.wrreg 0x15 0x0001) (idleWith (returned 6 false)))
      (fun t => t.history == writeEvents 0x15 0x01 0x00 0x64 false && t.res == 0 && t.phase == .idle) = true := by decide +kernel

/-- Every call flagged: the same six events, the same completion (95_test_vectors.md section 2.6). -/
theorem test_wrreg_all_failed :
    completes (exec (.wrreg 0x15 0x0001) (idleWith (returned 6 true)))
      (fun t => t.history == writeEvents 0x15 0x01 0x00 0x64 true && t.completions == [0] && t.phase == .idle) = true := by
  decide +kernel

theorem test_rdreg_events :
    completes (exec (.rdreg 0x09) (idleWith (reply false 0x74 0x0E)))
      (fun t => t.history == readEvents 0x09 0x74 0x0E false && t.res == 0x00000E74 && t.phase == .idle) = true := by decide

/-- Nobody answers the address: the six calls are made, the bytes are the transport's (95_test_vectors.md section 2.7). -/
theorem test_rdreg_failed :
    completes (exec (.rdreg 0x09) (idleWith (reply true 0xA5 0x5A)))
      (fun t => t.history == readEvents 0x09 0xA5 0x5A true && t.res == 0x00005AA5) = true := by decide

/-! ### The named operations (95_test_vectors.md section 2.8) -/

theorem test_init :
    completes (exec .init (idleWith (returned 18 false)))
      (fun t => t.history == writeEvents 0x15 0x01 0x00 0x64 false ++ writeEvents 0x0B 0x2D 0x00 0xB8 false ++
        writeEvents 0x16 0x01 0x00 0xD9 false && t.hostResult == .success && t.completions == [0, 0, 0]) = true := by
  decide +kernel

/-- Conflict C4: success whatever the transport flags. -/
theorem test_init_all_failed :
    completes (exec .init (idleWith (returned 18 true))) (fun t => t.hostResult == .success && t.phase == .idle) = true := by
  decide +kernel

theorem test_getVersion :
    completes (exec .getVersion (idleWith (reply false 0x34 0x12)))
      (fun t => t.history == readEvents 0x11 0x34 0x12 false && t.hostResult == .word 0x1234) = true := by decide

theorem test_initRsoc :
    completes (exec .initRsoc (idleWith (returned 6 false)))
      (fun t => t.history == writeEvents 0x07 0x55 0xAA 0x17 false && t.hostResult == .nothing) = true := by decide +kernel

theorem test_getVoltage :
    completes (exec .getVoltage (idleWith (reply false 0xD8 0x0E)))
      (fun t => t.history == readEvents 0x09 0xD8 0x0E false && t.hostResult == .word 3800) = true := by decide

theorem test_getIte :
    completes (exec .getIte (idleWith (reply false 0xE8 0x03)))
      (fun t => t.history == readEvents 0x0F 0xE8 0x03 false && t.hostResult == .word 1000) = true := by decide

theorem test_getRsoc :
    completes (exec .getRsoc (idleWith (reply false 0x57 0x00)))
      (fun t => t.history == readEvents 0x0D 0x57 0x00 false && t.hostResult == .word 87) = true := by decide

theorem test_getTemp :
    completes (exec .getTemp (idleWith (reply false 0xFF 0xFF)))
      (fun t => t.history == readEvents 0x08 0xFF 0xFF false && t.hostResult == .word 0xFFFF) = true := by decide

theorem test_setTempMode :
    completes (exec (.setTempMode 0x0000) (idleWith (returned 6 false)))
      (fun t => t.history == writeEvents 0x16 0x00 0x00 0xCC false) = true := by decide +kernel

theorem test_setCapacity :
    completes (exec (.setCapacity 0x002D) (idleWith (returned 6 false)))
      (fun t => t.history == writeEvents 0x0B 0x2D 0x00 0xB8 false) = true := by decide +kernel

theorem test_setAlarmRsoc :
    completes (exec (.setAlarmRsoc 10) (idleWith (returned 6 false)))
      (fun t => t.history == writeEvents 0x13 0x0A 0x00 0x8E false) = true := by decide +kernel

theorem test_setAlarmVolt :
    completes (exec (.setAlarmVolt (.finite 37 10)) (idleWith (returned 6 false)))
      (fun t => t.history == writeEvents 0x14 0x74 0x0E 0xC6 false) = true := by decide +kernel

/-- A mode outside the enumeration passes through. -/
theorem test_setPowerMode_pass_through :
    completes (exec (.setPowerMode 0x1234) (idleWith (returned 6 false)))
      (fun t => t.history == writeEvents 0x15 0x34 0x12 0xA2 false) = true := by decide +kernel

theorem test_setPowerMode_sleep :
    completes (exec (.setPowerMode 0x0002) (idleWith (returned 6 false)))
      (fun t => t.history == writeEvents 0x15 0x02 0x00 0x5B false) = true := by decide +kernel

theorem test_setProfile :
    completes (exec (.setProfile 0x0001) (idleWith (returned 6 false)))
      (fun t => t.history == writeEvents 0x12 0x01 0x00 0x72 false) = true := by decide +kernel

theorem test_getThermB :
    completes (exec .getThermB (idleWith (reply false 0x6B 0x0D)))
      (fun t => t.history == readEvents 0x06 0x6B 0x0D false && t.hostResult == .word 3435) = true := by decide

theorem test_setThermB :
    completes (exec (.setThermB 3435) (idleWith (returned 6 false)))
      (fun t => t.history == writeEvents 0x06 0x6B 0x0D 0x2F false) = true := by decide +kernel

/-! ### Stepping, stopping, reset -/

/-- The word placed for the next step runs (log 12). -/
theorem test_withFetchWord :
    completes (step (State.reset.withFetchWord 40 0x300001234)) (fun t => t.res == 0x1234 && t.inputs == []) = true := by decide

/-- 95_test_vectors.md P4, step 3. -/
theorem test_reserved_step : refuses (step (State.reset.withFetchWord 40 0x600000000)) .reservedEncoding = true := by decide

/-- A reserved word presented to a block that waits: the model's order of the two refusals (log 29). -/
theorem test_reserved_while_busy :
    refuses (step ((State.enter .wrSend State.reset).withFetchWord 40 0x600000000)) .reservedEncoding = true := by decide

/-- Only the Begin of a write flagged (95_test_vectors.md section 2.6): the bus is not assumed released (N39). -/
theorem test_bus_after_failed_begin :
    completes (exec (.wrreg 0x15 0x0001) (idleWith (.returns true 0 :: returned 5 false))) (fun t => t.bus.failed) = true := by
  decide +kernel

/-- 95_test_vectors.md P4: the transport never returns from the End of a read. The events up to that call are in H, no completion is
presented, the next command is refused as busy, and there is no later step (R262). -/
theorem test_stuck :
    completes (exec (.rdreg 0x09) (idleWith (returned 2 true ++ [.never])))
      (fun t => t.history == [⟨.begin 0x0B, true⟩, ⟨.write 0x09, true⟩] && t.phase == .rdAddr && t.completions == [] &&
        t.awaiting == some (.finish .nostop) && refuses (exec (.decr 0x00 0x00) t) .busy &&
        faults (step t) .awaitTransport) = true := by decide

/-- Reset in the middle of a command: H stays, no completion (R251). -/
theorem test_reset_in_command :
    completes (step { after (exec (.rdreg 0x09) (idleWith (returned 2 false ++ [.never]))) with inputs := [.reset] })
      (fun t => t.phase == .idle && t.awaiting == none && t.completions == [] &&
        t.history == [⟨.begin 0x0B, false⟩, ⟨.write 0x09, false⟩]) = true := by decide

/-- 95_test_vectors.md P2, first three steps in one: what the stub stores, it gives back. -/
theorem test_stub_write_read :
    completes (exec (.rdreg 0x14) (after (exec (.wrreg 0x14 0x0E74) (stubWith 0x16 [(0x26, 0x0A)]))))
      (fun t => t.res == 0x00000E74) = true := by decide +kernel

/-- The stub with another address byte drops every write (95_test_vectors.md section 4). -/
theorem test_stub_drops :
    completes (exec (.rdreg 0x14) (after (exec (.wrreg 0x14 0x0E74) (stubWith 0x17 [(0x28, 0x0A)]))))
      (fun t => t.res == 0x0000000A) = true := by decide +kernel

/-! ### Witnesses: the hypotheses of each obligation are met -/

/-- Crc8Completes, EncwCompletes, EncwComposesTheFrame, EncwPassesTheReceiversCheck, DecrMakesTheWord, DecrCompletes, DecrRoundTrip,
IdleBlockRunsEverything. -/
theorem witness_idle : State.reset.phase = .idle ∧ State.reset.awaiting = none := by decide

/-- ChecksumLaws: the hypotheses of its laws (b), (d) and (g). -/
theorem witness_checksumLaws :
    (∀ b ∈ [(0 : Byte), 0], b = 0) ∧ [(1 : Byte), 2].length = [(3 : Byte), 4].length ∧ (0x15 : Byte) ≠ 0x16 := by decide

/-- WrregSendsTheFrame, WrregCompletes, and AlarmVoltagePin at 3.7 volts, some flags set and some not. -/
theorem witness_write :
    (idleWith (returned 3 true ++ returned 3 false)).phase = .idle ∧
    (idleWith (returned 3 true ++ returned 3 false)).oracle.replies 0
        (writeCalls 0x0B 0x16 ((idleWith []).host.addr .alarmVoltage) 3700) =
      [.returns true 0, .returns true 0, .returns true 0, .returns false 0, .returns false 0, .returns false 0] := by decide +kernel

/-- RdregFetchesTheWord and RdregCompletes. -/
theorem witness_read :
    (idleWith (reply true 0x74 0x0E)).phase = .idle ∧
    (idleWith (reply true 0x74 0x0E)).oracle.replies 0 (readCalls 0x0B 0x09) =
      [.returns true 0, .returns true 0, .returns true 0, .returns true 0, .returns false 0x74, .returns false 0x0E] := by decide

/-- BytesTravelInOrder, both clauses, at a command that makes all its calls and at one whose first call never returns; EventShapeIsFixed
and OneCompletionPerCommand, completed and not; StepKeepsTheInvariant and the others over a step have `witness_step`. -/
theorem witness_calls :
    completes (exec (.wrreg 0x15 0x0001) (idleWith (returned 6 false))) (fun t => t.phase == .idle) = true ∧
    completes (exec (.wrreg 0x15 0x0001) (idleWith [.never])) (fun t => t.phase != .idle) = true ∧
    completes (exec (.rdreg 0x09) (idleWith (reply false 1 2))) (fun t => t.phase == .idle) = true ∧
    completes (exec (.rdreg 0x09) (idleWith [.never])) (fun t => t.phase != .idle) = true ∧
    completes (exec (.decr 0x00 0x00) State.reset) (fun t => t.phase == .idle) = true := by decide +kernel

/-- WrregWaitsInACall: in the first call and in the last. -/
theorem witness_wrregWaits :
    (((idleWith [.never]).oracle.replies 0 (writeCalls 0x0B 0x16 0x15 1)).take 1 =
      ([] : List (Bool × Byte)).map (fun p => Answer.returns p.1 p.2) ++ [.never]) ∧
    (((idleWith (returned 5 false ++ [.never])).oracle.replies 0 (writeCalls 0x0B 0x16 0x15 1)).take 6 =
      (List.replicate 5 ((false, 0) : Bool × Byte)).map (fun p => Answer.returns p.1 p.2) ++ [.never]) := by decide +kernel

/-- RdregWaitsInACall: in the first call, on either side of the move to RD_DATA, and in the last. -/
theorem witness_rdregWaits :
    ∀ k ∈ [0, 2, 3, 5],
      ((idleWith (returned k false ++ [.never])).oracle.replies 0 (readCalls 0x0B 0x09)).take (k + 1) =
        (List.replicate k ((false, 0) : Bool × Byte)).map (fun p => Answer.returns p.1 p.2) ++ [.never] := by decide

/-- BusIsReleasedAndHeld, its two clauses; the read's transport answers three calls, and then goes on or never returns. -/
theorem witness_bus :
    (idleWith (returned 6 false)).oracle.replies 0 (writeCalls 0x0B 0x16 0x15 1) =
      [.returns false 0, .returns false 0, .returns false 0, .returns false 0, .returns false 0, .returns false 0] ∧
    (idleWith (reply false 1 2)).oracle.replies 0 [.begin 0x0B, .write 0x09, .finish .nostop] =
      [.returns false 0, .returns false 0, .returns false 0] ∧
    (idleWith (returned 3 false ++ [.never])).oracle.replies 0 [.begin 0x0B, .write 0x09, .finish .nostop] =
      [.returns false 0, .returns false 0, .returns false 0] := by decide +kernel

/-- BusIsUnknownAfterAFailure, its two clauses: only the first call flagged, and only the last. -/
theorem witness_busUnknown :
    (idleWith (.returns true 0 :: returned 5 false)).oracle.replies 0 (writeCalls 0x0B 0x16 0x15 1) =
      [.returns true 0, .returns false 0, .returns false 0, .returns false 0, .returns false 0, .returns false 0] ∧
    (idleWith (returned 5 false ++ [.returns true 0])).oracle.replies 0 (readCalls 0x0B 0x09) =
      [.returns false 0, .returns false 0, .returns false 0, .returns false 0, .returns false 0, .returns true 0] := by decide +kernel

/-- NamedReadsReturnTheWord, NamedReadsComplete, NamedWritesSendTheWord and NamedWritesComplete: the operations are among those named, and
the answers are there. -/
theorem witness_named :
    namedRead .getThermB = some .thermB ∧ namedWrite .initRsoc = some (.rsocInit, 0xAA55) ∧
    ((idleWith []).host.addr .thermB = (idleWith []).host.regThermB) ∧
    ((idleWith []).host.addr .rsocInit = (idleWith []).host.regRsocInit) ∧
    (idleWith (reply false 1 2)).oracle.replies 0 (readCalls 0x0B ((idleWith []).host.addr .thermB)) =
      [.returns false 0, .returns false 0, .returns false 0, .returns false 0, .returns false 1, .returns false 2] ∧
    (idleWith (returned 6 true)).oracle.replies 0 (writeCalls 0x0B 0x16 ((idleWith []).host.addr .rsocInit) 0xAA55) =
      [.returns true 0, .returns true 0, .returns true 0, .returns true 0, .returns true 0, .returns true 0] := by decide +kernel

/-- InitIssuesThreeWrites and InitCompletes. -/
theorem witness_init :
    (idleWith (returned 18 true)).phase = .idle ∧
    (idleWith (returned 18 true)).oracle.replies 0
        (writeCalls 0x0B 0x16 hostEx.regPowerMode hostEx.pmOperate ++ writeCalls 0x0B 0x16 hostEx.regApa hostEx.apaDefault ++
          writeCalls 0x0B 0x16 hostEx.regStatusBit hostEx.tmThermistor) =
      List.zipWith Answer.returns (List.replicate 18 true) (List.replicate 18 0) := by decide +kernel

/-- NamedOperationsExpand: the command completes, waits, and is refused. -/
theorem witness_expand :
    Instr.getVersion.isCommand = false ∧ expand hostEx .getVersion = [.rdreg 0x11] ∧
    completes (exec (.rdreg 0x11) (idleWith (reply false 1 2))) (fun t => t.phase == .idle) = true ∧
    completes (exec (.rdreg 0x11) (idleWith [.never])) (fun t => t.phase != .idle) = true ∧
    refuses (exec (.rdreg 0x11) (State.enter .wrSend (idleWith []))) .busy = true := by decide

/-- DecodeOfEncode, EncodeOfDecode and DecodeFollowsTheMap: a word, its command and its row; two rows that are different and a word of
one of them. -/
theorem witness_words :
    encode (.wrreg 0xFF 0xFFFF) = some 0x400FFFFFF ∧ decode 0x400FFFFFF = .ok (.wrreg 0xFF 0xFFFF) ∧
    ⟨"WRREG", 0x400000000, 0x7FF000000⟩ ∈ operationMap ∧
    MapRow.selects ⟨"WRREG", 0x400000000, 0x7FF000000⟩ 0x400FFFFFF = true := by decide

/-- StepRunsTheNextInput, its two clauses. -/
theorem witness_inputs :
    (State.reset.withFetchWord 35 0x500FF0000).inputs = [.word 0x500FF0000] ∧ decode 0x500FF0000 = .ok (.rdreg 0xFF) ∧
    (Instr.setAlarmVolt (.finite 37 10)).wellFormed = true := by decide

/-- ReservedWordsAreRefused: a reserved operation, and one must-be-zero bit. -/
theorem witness_reserved :
    (∀ r ∈ operationMap, r.selects 0x7FFFFFFFF = false) ∧ (∀ r ∈ operationMap, r.selects 0x280150001 = false) := by decide

/-- BusyBlockRefuses and the second clause of StepWithoutInput; the first clause has `witness_idle`. -/
theorem witness_busy : (State.enter .wrSend State.reset).phase ≠ .idle ∧ State.reset.inputs = [] := by decide

/-- StepKeepsTheInvariant, StepKeepsTheConstants, HistoryOnlyGrows: from idle and from a state that waits, reset there. -/
theorem witness_step :
    ((idleWith (reply false 1 2)).present 0x500090000).inv = true ∧
    completes (step ((idleWith (reply false 1 2)).present 0x500090000)) (fun t => t.history.length == 6) = true ∧
    State.inv { after (exec (.rdreg 0x09) (idleWith [.never])) with inputs := [.reset] } = true ∧
    completes (step { after (exec (.rdreg 0x09) (idleWith [.never])) with inputs := [.reset] }) (fun t => t.phase == .idle) = true := by
  decide

/-- PhaseMoves: the transport returns, so the three operations with calls answer `.ok`. -/
theorem witness_phases :
    (match (idleWith (returned 6 false)).sendWrite with | .ok _ => true | .error _ => false) = true ∧
    (match (idleWith (returned 3 false)).sendAddress with | .ok _ => true | .error _ => false) = true ∧
    (match (idleWith (returned 3 false)).fetchReply with | .ok _ => true | .error _ => false) = true := by decide

/-- CommandsAreStateless: two states that differ in every working register. -/
theorem witness_stateless :
    completes (exec (.rdreg 0x09) (idleWith (reply false 1 2))) (fun t => t.res == 0x0201) = true ∧
    completes (exec (.rdreg 0x09) { idleWith (reply false 1 2) with
      crc := 1, frame := ⟨1, 1, 1, 1, 1⟩, rxl := 1, rxh := 1, rega := 1, word := 1, res := 1, idx := 1, bitcnt := 1 })
      (fun t => t.res == 0x0201) = true := by decide

/-- FlagsNeverMatter: answers that agree but for the flags, and that end in a call that never returns. -/
theorem witness_flags :
    List.Forall₂ (fun a b => Answer.agrees a b = true) [.returns true 1, .never] [.returns false 1, .never] ∧
    completes (exec (.rdreg 0x09) (idleWith [.returns true 1, .never])) (fun t => t.history == [⟨.begin 0x0B, true⟩]) = true ∧
    completes (exec (.rdreg 0x09) (idleWith [.returns false 1, .never])) (fun t => t.history == [⟨.begin 0x0B, false⟩]) = true :=
  ⟨.cons rfl (.cons rfl .nil), by decide, by decide⟩

/-- StubWriteFrame (both clauses: the stub's address byte is the block's, and is not), StubReadsAreIdempotent, StubReadAfterWrite. -/
theorem witness_stub :
    (stubWith 0x16 [(0x26, 0x0A)]).phase = .idle ∧ (stubWith 0x16 [(0x26, 0x0A)]).oracle = .stub ⟨0x16, 0, [(0x26, 0x0A)], [], []⟩ ∧
    Memory.wf [(0x26, 0x0A)] = true ∧ (stubWith 0x16 []).busAddrByte = 0x16 ∧ (0x17 : Byte) ≠ 0x16 := by decide

end Sys2Proof.Tests
end

section
/-! PROOF. The checksum computed bit by bit in the registers is the fold of the byte step (40_crc8.md sections 1 and 2). -/

namespace Sys2Proof.Machine

/-- The induction of R113: whatever CRC holds at the start, absorbing the bytes of `l` in index order folds the byte step over them. -/
theorem State.foldl_absorb_crc (l : List Byte) (s : State) : (l.foldl State.absorb s).crc = l.foldl bytestep s.crc := by
  induction l generalizing s with
  | nil => rfl
  | cons b l ih => rw [List.foldl_cons, List.foldl_cons, ih, State.absorb_eq]

/-- Settles O1: the byte step and the phase by their laws, the byte list by induction over it from an arbitrary register. -/
theorem checksumInRegisterTerms : Obligations.ChecksumInRegisterTerms := by
  unfold Obligations.ChecksumInRegisterTerms
  refine ⟨bytestep_eq_iterate, State.absorb_eq, fun s l => ⟨?absorbed, rfl⟩, fun s => ⟨?frame, ?register⟩⟩
  case absorbed => exact State.foldl_absorb_crc l { s with crc := 0 }
  case frame => rw [State.checksum_eq, Frame.covered]
  case register => rw [State.checksum_eq]

end Sys2Proof.Machine
end

section
/-! PROOF. The order in which the bytes of a transaction travel, whether or not it gets to its end (20_memory.md R63). -/

namespace Sys2Proof.Machine

/-- What acceptance can answer: only from IDLE, and then the state the command ended in or the one it waits in (R88, R262). -/
theorem State.accept_eq_next_iff {s t : State} {run : State → Except State State} :
    s.accept run = .next t ↔ s.phase = .idle ∧ (run s = .ok t ∨ run s = .error t) := by
  unfold State.accept
  split
  case isTrue hidle => cases run s <;> simp [hidle]
  case isFalse hbusy => simp [hbusy]

/-- The byte that came with the `i`-th of the returned calls `rs`; zero for a call that did not return. -/
def returnedByte (rs : List (Bool × Byte)) (i : Nat) : Byte := (rs.getD i (false, 0)).2

/-- The entries of the calls that returned are the first events of the whole list of calls, with their flags: a call that did not
return has an event of its own there, which the prefix leaves out. -/
theorem zipWith_event_eq_take (calls : List Call) (rs : List (Bool × Byte)) :
    List.zipWith (fun c p => Logged.mk (c.event p.2) p.1) calls rs =
      List.zipWith Logged.mk ((calls.mapIdx fun i c => c.event (returnedByte rs i)).take rs.length) (rs.map Prod.fst) := by
  apply List.ext_getElem
  case hl =>
    simp only [List.length_zipWith, List.length_take, List.length_mapIdx, List.length_map]
    omega
  case h =>
    intro i hi _
    have hrs : i < rs.length := List.lt_length_right_of_zipWith hi
    simp [returnedByte, hrs]

/-- No event of a write depends on what the transport returns. -/
theorem State.waitingWrite_history (s : State) (reg : Byte) (w : Word) (rs : List (Bool × Byte)) :
    (s.waitingWrite reg w rs).history = s.history ++ List.zipWith Logged.mk
      (List.take rs.length [.begin s.devAddr, .write reg, .write (lowByte w), .write (highByte w),
        .write (writeChecksum s.busAddrByte reg w), .finish .stop]) (rs.map Prod.fst) :=
  congrArg (s.history ++ ·) (zipWith_event_eq_take (writeCalls s.devAddr s.busAddrByte reg w) rs)

/-- The two reads of a read transaction are its calls 4 and 5. -/
theorem State.waitingRead_history (s : State) (reg : Byte) (rs : List (Bool × Byte)) :
    (s.waitingRead reg rs).history = s.history ++ List.zipWith Logged.mk
      (List.take rs.length [.begin s.devAddr, .write reg, .finish .nostop, .request s.devAddr 2, .read (returnedByte rs 4),
        .read (returnedByte rs 5)]) (rs.map Prod.fst) :=
  congrArg (s.history ++ ·) (zipWith_event_eq_take (readCalls s.devAddr reg) rs)

theorem State.waitingWrite_phase_ne_idle (s : State) (reg : Byte) (w : Word) (rs : List (Bool × Byte)) :
    (s.waitingWrite reg w rs).phase ≠ .idle := by
  simp [State.waitingWrite]

theorem State.waitingRead_phase_ne_idle (s : State) (reg : Byte) (rs : List (Bool × Byte)) :
    (s.waitingRead reg rs).phase ≠ .idle := by
  unfold State.waitingRead
  dsimp only
  split <;> decide

/-- Settles O20: either transaction completes with all six events or waits with a prefix of them, and a wait is never in IDLE. -/
theorem bytesTravelInOrder : Obligations.BytesTravelInOrder := by
  unfold Obligations.BytesTravelInOrder
  refine ⟨fun s t reg w hexec => ?write, fun s t reg hexec => ?read⟩
  case write =>
    obtain ⟨-, hrun⟩ := State.accept_eq_next_iff.mp hexec
    obtain ⟨f0, f1, f2, f3, f4, f5, -, -, -, -, -, -, -, hok⟩ | ⟨rs, hlen, -, hwait⟩ := s.writeRegister_cases reg w
    · obtain rfl : s.afterWrite reg w f0 f1 f2 f3 f4 f5 = t := by simpa [hok] using hrun
      exact ⟨6, [f0, f1, f2, f3, f4, f5], le_rfl, rfl, fun _ => rfl, rfl⟩
    · obtain rfl : s.waitingWrite reg w rs = t := by simpa [hwait] using hrun
      exact ⟨rs.length, rs.map Prod.fst, hlen.le, List.length_map _,
        fun hidle => absurd hidle (s.waitingWrite_phase_ne_idle reg w rs), s.waitingWrite_history reg w rs⟩
  case read =>
    obtain ⟨-, hrun⟩ := State.accept_eq_next_iff.mp hexec
    obtain ⟨f0, f1, f2, f3, f4, f5, -, -, -, -, lo, hi, -, hok⟩ | ⟨rs, hlen, -, hwait⟩ := s.readRegister_cases reg
    · obtain rfl : s.afterRead reg lo hi f0 f1 f2 f3 f4 f5 = t := by simpa [hok] using hrun
      exact ⟨6, [f0, f1, f2, f3, f4, f5], lo, hi, le_rfl, rfl, fun _ => ⟨rfl, rfl⟩, rfl⟩
    · obtain rfl : s.waitingRead reg rs = t := by simpa [hwait] using hrun
      exact ⟨rs.length, rs.map Prod.fst, returnedByte rs 4, returnedByte rs 5, hlen.le, List.length_map _,
        fun hidle => absurd hidle (s.waitingRead_phase_ne_idle reg rs), s.waitingRead_history reg rs⟩

end Sys2Proof.Machine
end

section
/-! PROOF. A word and its two bytes (30_encoding.md R84 and R85): an assembled word is the bytes side by side, the high byte first. -/

namespace Sys2Proof.Machine

theorem assembleWord_eq_append (hi lo : Byte) : assembleWord hi lo = hi ++ lo := by
  rw [BitVec.append_def, BitVec.shiftLeftZeroExtend_eq]
  rfl

/-- R85: the word is unsigned, the high byte counting 256. -/
theorem assembleWord_toNat (hi lo : Byte) : (assembleWord hi lo).toNat = 256 * hi.toNat + lo.toNat := by
  rw [assembleWord_eq_append, BitVec.toNat_append, ← Nat.shiftLeft_add_eq_or_of_lt lo.isLt, Nat.shiftLeft_eq, Nat.mul_comm]

/-- R84: bits 15 to 8 and bits 7 to 0 are adjacent slices of the word, and together the whole of it. -/
theorem assembleWord_highByte_lowByte (w : Word) : assembleWord (highByte w) (lowByte w) = w := by
  rw [assembleWord_eq_append]
  exact BitVec.extractLsb'_append_extractLsb' (w := 8) (len := 8)

/-- Settles O15: the bytes of a word assemble to that word, and each byte of an assembled word is the byte it was made of. -/
theorem splitThenAssemble : Obligations.SplitThenAssemble := by
  unfold Obligations.SplitThenAssemble
  refine ⟨fun w => ⟨?assembled, rfl, rfl⟩, fun hi lo => ⟨?unsigned, ?high, ?low⟩⟩
  case assembled => exact assembleWord_highByte_lowByte w
  case unsigned => exact assembleWord_toNat hi lo
  case high => exact highByte_assembleWord hi lo
  case low => exact lowByte_assembleWord hi lo

end Sys2Proof.Machine
end

section
/-! PROOF. The frame ENCW composes and the word DECR makes (41_frame_codec.md R131 and R135): each command runs its transfers and
completes, and the fields of RES and of the command word are slices of a concatenation, each with the bounds of one of its parts. -/

namespace Sys2Proof.Machine

theorem exec_encw_of_idle {s : State} (reg : Byte) (w : Word) (hidle : s.phase = .idle) :
    exec (.encw reg w) s =
      .next ((s.loadWrite reg w).checksum.complete (resOfWire (s.loadWrite reg w).checksum.frame)) := by
  rw [exec, execEncw, State.accept_eq_next_iff]
  exact ⟨hidle, .inl rfl⟩

theorem exec_decr_of_idle {s : State} (lo hi : Byte) (hidle : s.phase = .idle) :
    exec (.decr lo hi) s = .next (s.loadReply lo hi).completeWord := by
  rw [exec, execDecr, State.accept_eq_next_iff]
  exact ⟨hidle, .inl rfl⟩

/-- What the CRC phase leaves in F is the frame of a write (R80, R119), whatever F held before. -/
theorem State.checksum_loadWrite_frame (s : State) (reg : Byte) (w : Word) :
    (s.loadWrite reg w).checksum.frame = writeFrame s.busAddrByte reg w := by
  rw [State.checksum_eq]
  rfl

/-- Two parts above two bytes: the layout ENCW's RES (R92) and the format LH (R89) share. -/
theorem extractLsb'_append_two_bytes {m n : Nat} (a : BitVec m) (b : BitVec n) (hi lo : Byte) :
    (a ++ b ++ hi ++ lo).extractLsb' (n + 16) m = a ∧ (a ++ b ++ hi ++ lo).extractLsb' 16 n = b ∧
      (a ++ b ++ hi ++ lo).extractLsb' 8 8 = hi ∧ (a ++ b ++ hi ++ lo).extractLsb' 0 8 = lo := by
  refine ⟨?first, ?second, ?high, BitVec.extractLsb'_append_eq_right⟩
  case first =>
    rw [BitVec.extractLsb'_append_eq_of_le (by omega), BitVec.extractLsb'_append_eq_of_le (by omega)]
    exact BitVec.extractLsb'_append_eq_left
  case second =>
    rw [BitVec.extractLsb'_append_eq_of_le (by omega), BitVec.extractLsb'_append_eq_of_le (by omega)]
    exact BitVec.extractLsb'_append_eq_right
  case high =>
    rw [BitVec.extractLsb'_append_eq_of_le le_rfl]
    exact BitVec.extractLsb'_append_eq_right

/-- R92: wire byte 0 on top. -/
theorem resByte_resOfWire (f : Frame) :
    resByte (resOfWire f) 3 = f.r ∧ resByte (resOfWire f) 2 = f.l ∧ resByte (resOfWire f) 1 = f.h ∧
      resByte (resOfWire f) 0 = f.c :=
  extractLsb'_append_two_bytes f.r f.l f.h f.c

/-- Settles O9: RES is the wire part of the frame the CRC phase completed, byte by byte. -/
theorem encwComposesTheFrame : Obligations.EncwComposesTheFrame := by
  unfold Obligations.EncwComposesTheFrame
  intro s reg w hidle
  refine ⟨_, exec_encw_of_idle reg w hidle, ?_⟩
  rw [State.complete_res, State.checksum_loadWrite_frame]
  exact resByte_resOfWire (writeFrame s.busAddrByte reg w)

/-- R89: the must-be-zero bits of the format are zero. -/
theorem fields_formatLH (op : BitVec 3) (hi lo : Byte) :
    CmdWord.op (formatLH op hi lo) = op ∧ CmdWord.high (formatLH op hi lo) = 0 ∧
      CmdWord.byte1 (formatLH op hi lo) = hi ∧ CmdWord.byte0 (formatLH op hi lo) = lo :=
  extractLsb'_append_two_bytes op 0#16 hi lo

theorem decode_formatLH_opDecr (hi lo : Byte) : decode (formatLH opDecr hi lo) = .ok (.decr lo hi) := by
  obtain ⟨hop, hzero, hbyte1, hbyte0⟩ := fields_formatLH opDecr hi lo
  have hcrc8 : opDecr ≠ opCrc8 := by decide
  have hencw : opDecr ≠ opEncw := by decide
  simp only [decode, hop, hzero, hbyte1, hbyte0, if_neg hcrc8, if_neg hencw, if_true]

/-- Settles O12: the command's transfers from an idle state, the word of its format, and the words of the rule's corner cases. -/
theorem decrMakesTheWord : Obligations.DecrMakesTheWord := by
  unfold Obligations.DecrMakesTheWord
  refine ⟨fun s lo hi hidle => ?transfers, fun lo hi => ?encoding, ?corners⟩
  case transfers => exact ⟨_, exec_decr_of_idle lo hi hidle, rfl, rfl, rfl, rfl⟩
  case encoding => exact decode_formatLH_opDecr hi lo
  case corners => decide

end Sys2Proof.Machine
end

section
/-! PROOF. The two bus transactions when their six calls return (42_bus_transactions.md R151 and R153): each command ends in the state
the laws of the transport give, and the command word of each format gives back its operands. -/

namespace Sys2Proof.Machine

theorem exec_wrreg_of_returns {s : State} {reg : Byte} {w : Word} {f0 f1 f2 f3 f4 f5 : Bool} {b0 b1 b2 b3 b4 b5 : Byte}
    (hidle : s.phase = .idle)
    (hreplies : s.oracle.replies s.draws (writeCalls s.devAddr s.busAddrByte reg w) =
      [.returns f0 b0, .returns f1 b1, .returns f2 b2, .returns f3 b3, .returns f4 b4, .returns f5 b5]) :
    exec (.wrreg reg w) s = .next (s.afterWrite reg w f0 f1 f2 f3 f4 f5) := by
  rw [exec, execWrreg, State.accept_eq_next_iff]
  exact ⟨hidle, .inl (State.writeRegister_returns hreplies)⟩

theorem exec_rdreg_of_returns {s : State} {reg lo hi : Byte} {f0 f1 f2 f3 f4 f5 : Bool} {b0 b1 b2 b3 : Byte}
    (hidle : s.phase = .idle)
    (hreplies : s.oracle.replies s.draws (readCalls s.devAddr reg) =
      [.returns f0 b0, .returns f1 b1, .returns f2 b2, .returns f3 b3, .returns f4 lo, .returns f5 hi]) :
    exec (.rdreg reg) s = .next (s.afterRead reg lo hi f0 f1 f2 f3 f4 f5) := by
  rw [exec, execRdreg, State.accept_eq_next_iff]
  exact ⟨hidle, .inl (State.readRegister_returns hreplies)⟩

/-- R89: the must-be-zero byte of the format is zero. -/
theorem fields_formatRW (op : BitVec 3) (reg : Byte) (w : Word) :
    CmdWord.op (formatRW op reg w) = op ∧ CmdWord.byte3 (formatRW op reg w) = 0 ∧
      CmdWord.byte2 (formatRW op reg w) = reg ∧ CmdWord.low (formatRW op reg w) = w := by
  unfold formatRW CmdWord.op CmdWord.byte3 CmdWord.byte2 CmdWord.low
  refine ⟨?op, ?zero, ?reg, BitVec.extractLsb'_append_eq_right⟩
  case op =>
    rw [BitVec.extractLsb'_append_eq_of_le (by decide), BitVec.extractLsb'_append_eq_of_le (by decide)]
    exact BitVec.extractLsb'_append_eq_left
  case zero =>
    rw [BitVec.extractLsb'_append_eq_of_le (by decide), BitVec.extractLsb'_append_eq_of_le (by decide)]
    exact BitVec.extractLsb'_append_eq_right
  case reg =>
    rw [BitVec.extractLsb'_append_eq_of_le le_rfl]
    exact BitVec.extractLsb'_append_eq_right

theorem decode_formatRW_opWrreg (reg : Byte) (w : Word) : decode (formatRW opWrreg reg w) = .ok (.wrreg reg w) := by
  obtain ⟨hop, hzero, hreg, hword⟩ := fields_formatRW opWrreg reg w
  have hcrc8 : opWrreg ≠ opCrc8 := by decide
  have hencw : opWrreg ≠ opEncw := by decide
  have hdecr : opWrreg ≠ opDecr := by decide
  simp only [decode, hop, hzero, hreg, hword, if_neg hcrc8, if_neg hencw, if_neg hdecr, if_true]

/-- Format R is format RW with the word's place zero (R89), so the fields of RW serve. -/
theorem decode_formatR_opRdreg (reg : Byte) : decode (formatR opRdreg reg) = .ok (.rdreg reg) := by
  change decode (formatRW opRdreg reg 0) = _
  obtain ⟨hop, hzero, hreg, hlow⟩ := fields_formatRW opRdreg reg 0
  have hcrc8 : opRdreg ≠ opCrc8 := by decide
  have hencw : opRdreg ≠ opEncw := by decide
  have hdecr : opRdreg ≠ opDecr := by decide
  have hwrreg : opRdreg ≠ opWrreg := by decide
  simp only [decode, hop, hzero, hreg, hlow, if_neg hcrc8, if_neg hencw, if_neg hdecr, if_neg hwrreg, and_self, if_true]

/-- Settles O16: the frame, RES and the six events are fields of the state after a write, and the word is the one of format RW. -/
theorem wrregSendsTheFrame : Obligations.WrregSendsTheFrame := by
  unfold Obligations.WrregSendsTheFrame
  refine ⟨fun s reg w f0 f1 f2 f3 f4 f5 b0 b1 b2 b3 b4 b5 hidle hreplies => ?transaction, fun reg w => ?encoding⟩
  case transaction => exact ⟨_, exec_wrreg_of_returns hidle hreplies, rfl, rfl, rfl, rfl⟩
  case encoding => exact decode_formatRW_opWrreg reg w

/-- Settles O17: the bytes, RES and the six events are fields of the state after a read, which has the checksum register and the frame
it began with, and the word is the one of format R. -/
theorem rdregFetchesTheWord : Obligations.RdregFetchesTheWord := by
  unfold Obligations.RdregFetchesTheWord
  refine ⟨fun s reg lo hi f0 f1 f2 f3 f4 f5 b0 b1 b2 b3 hidle hreplies => ?transaction, fun reg => ?encoding⟩
  case transaction => exact ⟨_, exec_rdreg_of_returns hidle hreplies, rfl, rfl, rfl, rfl, rfl, rfl, rfl, rfl⟩
  case encoding => exact decode_formatR_opRdreg reg

end Sys2Proof.Machine
end

section
/-! PROOF. The named reads and writes when their calls return (43_register_interface.md R182 to R199): each is the one command of its
register, with a result for its caller. -/

namespace Sys2Proof.Machine

theorem wordOfRes_resOfWord (w : Word) : wordOfRes (resOfWord w) = w := by
  rw [wordOfRes, resOfWord, BitVec.extractLsb'_setWidth_of_le (by decide), BitVec.extractLsb'_eq_self]

theorem State.hostRead_returns {s : State} {reg lo hi : Byte} {f0 f1 f2 f3 f4 f5 : Bool} {b0 b1 b2 b3 : Byte}
    (hreplies : s.oracle.replies s.draws (readCalls s.devAddr reg) =
      [.returns f0 b0, .returns f1 b1, .returns f2 b2, .returns f3 b3, .returns f4 lo, .returns f5 hi]) :
    s.hostRead reg = .ok { s.afterRead reg lo hi f0 f1 f2 f3 f4 f5 with hostResult := .word (assembleWord hi lo) } := by
  have hres : wordOfRes (s.afterRead reg lo hi f0 f1 f2 f3 f4 f5).res = assembleWord hi lo := wordOfRes_resOfWord _
  rw [State.hostRead, State.readRegister_returns hreplies, ← hres]
  rfl

theorem State.hostWrite_returns {s : State} {reg : Byte} {w : Word} {f0 f1 f2 f3 f4 f5 : Bool} {b0 b1 b2 b3 b4 b5 : Byte}
    (hreplies : s.oracle.replies s.draws (writeCalls s.devAddr s.busAddrByte reg w) =
      [.returns f0 b0, .returns f1 b1, .returns f2 b2, .returns f3 b3, .returns f4 b4, .returns f5 b5]) :
    s.hostWrite reg w = .ok { s.afterWrite reg w f0 f1 f2 f3 f4 f5 with hostResult := .nothing } := by
  rw [State.hostWrite, State.writeRegister_returns hreplies]
  rfl

/-- R180: a named read is the RDREG of its register, to the block and in its meaning. -/
theorem expand_and_exec_of_namedRead {i : Instr} {n : RegName} (s : State) (hread : namedRead i = some n) :
    expand s.host i = [.rdreg (s.host.addr n)] ∧ exec i s = s.accept (State.hostRead (s.host.addr n)) := by
  unfold namedRead at hread
  split at hread
  case h_7 => cases hread
  all_goals
    cases hread
    exact ⟨rfl, rfl⟩

/-- R180: a named write is the WRREG of its register and word, to the block and in its meaning. -/
theorem expand_and_exec_of_namedWrite {i : Instr} {n : RegName} {w : Word} (s : State) (hwrite : namedWrite i = some (n, w)) :
    expand s.host i = [.wrreg (s.host.addr n) w] ∧ exec i s = s.accept (State.hostWrite (s.host.addr n) w) := by
  unfold namedWrite at hwrite
  split at hwrite
  case h_9 => cases hwrite
  all_goals
    cases hwrite
    exact ⟨rfl, rfl⟩

theorem exec_namedRead_of_returns {i : Instr} {n : RegName} {s : State} {lo hi : Byte} {f0 f1 f2 f3 f4 f5 : Bool}
    {b0 b1 b2 b3 : Byte} (hread : namedRead i = some n) (hidle : s.phase = .idle)
    (hreplies : s.oracle.replies s.draws (readCalls s.devAddr (s.host.addr n)) =
      [.returns f0 b0, .returns f1 b1, .returns f2 b2, .returns f3 b3, .returns f4 lo, .returns f5 hi]) :
    exec i s = .next { s.afterRead (s.host.addr n) lo hi f0 f1 f2 f3 f4 f5 with hostResult := .word (assembleWord hi lo) } := by
  obtain ⟨-, hexec⟩ := expand_and_exec_of_namedRead s hread
  rw [hexec, State.accept_eq_next_iff]
  exact ⟨hidle, .inl (State.hostRead_returns hreplies)⟩

theorem exec_namedWrite_of_returns {i : Instr} {n : RegName} {w : Word} {s : State} {f0 f1 f2 f3 f4 f5 : Bool}
    {b0 b1 b2 b3 b4 b5 : Byte} (hwrite : namedWrite i = some (n, w)) (hidle : s.phase = .idle)
    (hreplies : s.oracle.replies s.draws (writeCalls s.devAddr s.busAddrByte (s.host.addr n) w) =
      [.returns f0 b0, .returns f1 b1, .returns f2 b2, .returns f3 b3, .returns f4 b4, .returns f5 b5]) :
    exec i s = .next { s.afterWrite (s.host.addr n) w f0 f1 f2 f3 f4 f5 with hostResult := .nothing } := by
  obtain ⟨-, hexec⟩ := expand_and_exec_of_namedWrite s hwrite
  rw [hexec, State.accept_eq_next_iff]
  exact ⟨hidle, .inl (State.hostWrite_returns hreplies)⟩

/-- Settles O26: each operation listed is the named read of its register, whose next state holds the word and the six events. -/
theorem namedReadsReturnTheWord : Obligations.NamedReadsReturnTheWord := by
  unfold Obligations.NamedReadsReturnTheWord
  intro i reg s lo hi f0 f1 f2 f3 f4 f5 b0 b1 b2 b3 hlisted hidle hreplies
  obtain ⟨n, hread, rfl⟩ : ∃ n, namedRead i = some n ∧ s.host.addr n = reg := by
    simp only [List.mem_cons, Prod.mk.injEq, List.not_mem_nil, or_false] at hlisted
    obtain ⟨rfl, rfl⟩ | ⟨rfl, rfl⟩ | ⟨rfl, rfl⟩ | ⟨rfl, rfl⟩ | ⟨rfl, rfl⟩ | ⟨rfl, rfl⟩ := hlisted
    all_goals exact ⟨_, rfl, rfl⟩
  obtain ⟨hexpand, -⟩ := expand_and_exec_of_namedRead s hread
  exact ⟨hexpand, _, exec_namedRead_of_returns hread hidle hreplies, rfl, rfl⟩

/-- Settles O27: each operation listed is the named write of its register and word, whose next state holds no result and the six events. -/
theorem namedWritesSendTheWord : Obligations.NamedWritesSendTheWord := by
  unfold Obligations.NamedWritesSendTheWord
  intro i reg w s f0 f1 f2 f3 f4 f5 b0 b1 b2 b3 b4 b5 hlisted hidle hreplies
  obtain ⟨n, hwrite, rfl⟩ : ∃ n, namedWrite i = some (n, w) ∧ s.host.addr n = reg := by
    simp only [List.mem_cons, Prod.mk.injEq, and_true, List.not_mem_nil, or_false] at hlisted
    obtain ⟨rfl, rfl, rfl⟩ | ⟨rfl, rfl⟩ | ⟨rfl, rfl⟩ | ⟨rfl, rfl⟩ | ⟨rfl, rfl⟩ | ⟨rfl, rfl⟩ | ⟨rfl, rfl⟩ := hlisted
    all_goals exact ⟨_, rfl, rfl⟩
  obtain ⟨hexpand, -⟩ := expand_and_exec_of_namedWrite s hwrite
  exact ⟨hexpand, _, exec_namedWrite_of_returns hwrite hidle hreplies, rfl, rfl⟩

end Sys2Proof.Machine
end

section
/-! PROOF. INIT (43_register_interface.md R181): the answers to its 18 calls are those to three writes, each from the state the one
before it left, and no flag changes which writes are issued. -/

namespace Sys2Proof.Machine

/-- The oracle answers the later calls in the state the earlier ones left it in. -/
theorem Oracle.replies_append (o : Oracle) (n : Nat) (cs ds : List Call) :
    o.replies n (cs ++ ds) = o.replies n cs ++ (o.afterCalls n cs).replies (n + cs.length) ds := by
  induction cs generalizing o n with
  | nil => rfl
  | cons c cs ih =>
    simp only [List.cons_append, Oracle.replies, Oracle.afterCalls, ih, List.length_cons, Nat.add_comm cs.length, Nat.add_assoc]

theorem Oracle.replies_length (o : Oracle) (n : Nat) (cs : List Call) : (o.replies n cs).length = cs.length := by
  induction cs generalizing o n with
  | nil => rfl
  | cons c cs ih => simp only [Oracle.replies, List.length_cons, ih]

/-- Where calls return, with the flags `fs` and the bytes `bs`, so does each part of them, with its part of the flags and bytes. -/
theorem Oracle.replies_append_returns {o : Oracle} {n : Nat} {cs ds : List Call} {fs : List Bool} {bs : List Byte}
    (hreplies : o.replies n (cs ++ ds) = List.zipWith Answer.returns fs bs) :
    o.replies n cs = List.zipWith Answer.returns (fs.take cs.length) (bs.take cs.length) ∧
      (o.afterCalls n cs).replies (n + cs.length) ds =
        List.zipWith Answer.returns (fs.drop cs.length) (bs.drop cs.length) := by
  rw [Oracle.replies_append] at hreplies
  rw [← List.take_zipWith, ← List.drop_zipWith, ← hreplies]
  exact ⟨(List.take_left' (o.replies_length n cs)).symm, (List.drop_left' (o.replies_length n cs)).symm⟩

/-- `State.afterWrite`, its six failure flags in a list. -/
def State.afterWriteFlags (s : State) (reg : Byte) (w : Word) (fs : List Bool) : State :=
  s.afterWrite reg w (fs.getD 0 false) (fs.getD 1 false) (fs.getD 2 false) (fs.getD 3 false) (fs.getD 4 false) (fs.getD 5 false)

theorem State.writeRegister_returns_list {s : State} {reg : Byte} {w : Word} {fs : List Bool} {bs : List Byte}
    (hfs : fs.length = 6) (hbs : bs.length = 6)
    (hreplies : s.oracle.replies s.draws (writeCalls s.devAddr s.busAddrByte reg w) = List.zipWith Answer.returns fs bs) :
    s.writeRegister reg w = .ok (s.afterWriteFlags reg w fs) :=
  match fs, bs, hfs, hbs with
  | [_, _, _, _, _, _], [_, _, _, _, _, _], _, _ => State.writeRegister_returns hreplies

/-- Where the calls of a write and then those of `later` return, the write completes, and `later` returns from the state it leaves. -/
theorem State.writeRegister_append_returns {s : State} {reg : Byte} {w : Word} {later : List Call} {fs : List Bool}
    {bs : List Byte} (hfs : 6 ≤ fs.length) (hbs : 6 ≤ bs.length)
    (hreplies : s.oracle.replies s.draws (writeCalls s.devAddr s.busAddrByte reg w ++ later) =
      List.zipWith Answer.returns fs bs) :
    s.writeRegister reg w = .ok (s.afterWriteFlags reg w (fs.take 6)) ∧
      (s.afterWriteFlags reg w (fs.take 6)).oracle.replies (s.afterWriteFlags reg w (fs.take 6)).draws later =
        List.zipWith Answer.returns (fs.drop 6) (bs.drop 6) := by
  obtain ⟨hwrite, hlater⟩ := Oracle.replies_append_returns hreplies
  exact ⟨State.writeRegister_returns_list (List.length_take_of_le hfs) (List.length_take_of_le hbs) hwrite, hlater⟩

@[simp] theorem writeCalls_length (devAddr : DevAddr) (busAddrByte reg : Byte) (w : Word) :
    (writeCalls devAddr busAddrByte reg w).length = 6 := rfl

@[simp] theorem State.afterWriteFlags_devAddr (s : State) (reg : Byte) (w : Word) (fs : List Bool) :
    (s.afterWriteFlags reg w fs).devAddr = s.devAddr := rfl

@[simp] theorem State.afterWriteFlags_busAddrByte (s : State) (reg : Byte) (w : Word) (fs : List Bool) :
    (s.afterWriteFlags reg w fs).busAddrByte = s.busAddrByte := rfl

@[simp] theorem State.afterWriteFlags_host (s : State) (reg : Byte) (w : Word) (fs : List Bool) :
    (s.afterWriteFlags reg w fs).host = s.host := rfl

/-- A write appends the events of its calls; none of them is a read, so the byte `Call.event` asks for is not used. -/
theorem State.afterWriteFlags_history (s : State) (reg : Byte) (w : Word) {fs : List Bool} (hfs : fs.length = 6) :
    (s.afterWriteFlags reg w fs).history =
      s.history ++ List.zipWith Logged.mk ((writeCalls s.devAddr s.busAddrByte reg w).map (Call.event 0)) fs :=
  match fs, hfs with
  | [_, _, _, _, _, _], _ => rfl

/-- The state after the three writes of INIT and its result, from the failure flags of its 18 calls (R181). -/
def State.afterInit (s : State) (fs : List Bool) : State :=
  { ((s.afterWriteFlags s.host.regPowerMode s.host.pmOperate (fs.take 6)).afterWriteFlags
      s.host.regApa s.host.apaDefault ((fs.drop 6).take 6)).afterWriteFlags
      s.host.regStatusBit s.host.tmThermistor ((fs.drop 6).drop 6) with hostResult := .success }

/-- The calls of INIT's three writes, in order (R181). -/
def initCalls (devAddr : DevAddr) (busAddrByte : Byte) (p : HostParams) : List Call :=
  writeCalls devAddr busAddrByte p.regPowerMode p.pmOperate ++ writeCalls devAddr busAddrByte p.regApa p.apaDefault ++
    writeCalls devAddr busAddrByte p.regStatusBit p.tmThermistor

theorem exec_init_of_returns {s : State} {fs : List Bool} {bs : List Byte} (hidle : s.phase = .idle) (hfs : fs.length = 18)
    (hbs : bs.length = 18)
    (hreplies : s.oracle.replies s.draws (initCalls s.devAddr s.busAddrByte s.host) = List.zipWith Answer.returns fs bs) :
    exec .init s = .next (s.afterInit fs) := by
  rw [initCalls, List.append_assoc] at hreplies
  obtain ⟨hpower, hrest⟩ := State.writeRegister_append_returns (by omega) (by omega) hreplies
  obtain ⟨hcapacity, hlast⟩ := State.writeRegister_append_returns (by simp [hfs]) (by simp [hbs]) hrest
  have htemp := State.writeRegister_returns_list (by simp [hfs]) (by simp [hbs]) hlast
  rw [exec, execInit, State.accept_eq_next_iff]
  refine ⟨hidle, .inl ?_⟩
  simp only [hpower, hcapacity, htemp, State.afterWriteFlags_host, bind, Except.bind, State.afterInit]

theorem zipWith_append_take_drop {α β γ : Type} (f : α → β → γ) (as as' : List α) {bs : List β} (h : as.length ≤ bs.length) :
    List.zipWith f (as ++ as') bs =
      List.zipWith f as (bs.take as.length) ++ List.zipWith f as' (bs.drop as.length) := by
  rw [← List.zipWith_append (List.length_take_of_le h).symm, List.take_append_drop]

/-- INIT appends the events of its 18 calls in order, a write's six after those of the write before it. -/
theorem State.afterInit_history (s : State) {fs : List Bool} (hfs : fs.length = 18) :
    (s.afterInit fs).history =
      s.history ++ List.zipWith Logged.mk ((initCalls s.devAddr s.busAddrByte s.host).map (Call.event 0)) fs := by
  rw [initCalls, List.append_assoc, List.map_append, List.map_append, zipWith_append_take_drop _ _ _ (by simp [hfs]),
    zipWith_append_take_drop _ _ _ (by simp [hfs])]
  simp [State.afterInit, State.afterWriteFlags_history, hfs]

/-- Settles O30: INIT ends in the state after its three writes, which has its result and their events. -/
theorem initIssuesThreeWrites : Obligations.InitIssuesThreeWrites := by
  unfold Obligations.InitIssuesThreeWrites
  intro s fs bs calls hidle hfs hbs hreplies
  exact ⟨rfl, _, exec_init_of_returns hidle hfs hbs hreplies, rfl, s.afterInit_history hfs⟩

end Sys2Proof.Machine
end

section
/-! PROOF. The command word (30_encoding.md R88 to R91): a word is its fields side by side, so decoding inverts the encoder both ways and
agrees with the printed operation map. -/

namespace Sys2Proof

theorem CmdWord.append_fields (w : CmdWord) : CmdWord.op w ++ CmdWord.byte3 w ++ CmdWord.byte2 w ++ CmdWord.low w = w := by
  unfold CmdWord.op CmdWord.byte3 CmdWord.byte2 CmdWord.low
  rw [BitVec.extractLsb'_append_extractLsb'_eq_extractLsb' (by rfl), BitVec.extractLsb'_append_extractLsb'_eq_extractLsb' (by rfl),
    BitVec.extractLsb'_append_extractLsb'_eq_extractLsb' (by rfl)]
  exact BitVec.extractLsb'_eq_self

theorem CmdWord.ext_fields {w v : CmdWord} (hop : CmdWord.op w = CmdWord.op v) (hbyte3 : CmdWord.byte3 w = CmdWord.byte3 v)
    (hbyte2 : CmdWord.byte2 w = CmdWord.byte2 v) (hlow : CmdWord.low w = CmdWord.low v) : w = v := by
  rw [← w.append_fields, ← v.append_fields, hop, hbyte3, hbyte2, hlow]

theorem formatB4_fields (w : CmdWord) :
    formatB4 (CmdWord.op w) (CmdWord.byte3 w) (CmdWord.byte2 w) (CmdWord.byte1 w) (CmdWord.byte0 w) = w := by
  unfold formatB4 CmdWord.op CmdWord.byte3 CmdWord.byte2 CmdWord.byte1 CmdWord.byte0
  rw [BitVec.extractLsb'_append_extractLsb'_eq_extractLsb' (by rfl), BitVec.extractLsb'_append_extractLsb'_eq_extractLsb' (by rfl),
    BitVec.extractLsb'_append_extractLsb'_eq_extractLsb' (by rfl), BitVec.extractLsb'_append_extractLsb'_eq_extractLsb' (by rfl)]
  exact BitVec.extractLsb'_eq_self

theorem formatLH_fields {w : CmdWord} (hhigh : CmdWord.high w = 0) :
    formatLH (CmdWord.op w) (CmdWord.byte1 w) (CmdWord.byte0 w) = w := by
  change CmdWord.op w ++ 0 ++ CmdWord.byte1 w ++ CmdWord.byte0 w = w
  rw [← hhigh]
  unfold CmdWord.op CmdWord.high CmdWord.byte1 CmdWord.byte0
  rw [BitVec.extractLsb'_append_extractLsb'_eq_extractLsb' (by rfl), BitVec.extractLsb'_append_extractLsb'_eq_extractLsb' (by rfl),
    BitVec.extractLsb'_append_extractLsb'_eq_extractLsb' (by rfl)]
  exact BitVec.extractLsb'_eq_self

theorem formatRW_fields {w : CmdWord} (hbyte3 : CmdWord.byte3 w = 0) :
    formatRW (CmdWord.op w) (CmdWord.byte2 w) (CmdWord.low w) = w := by
  change CmdWord.op w ++ 0 ++ CmdWord.byte2 w ++ CmdWord.low w = w
  rw [← hbyte3]
  exact w.append_fields

theorem fields_formatB4 (op : BitVec 3) (b0 b1 b2 b3 : Byte) :
    CmdWord.op (formatB4 op b0 b1 b2 b3) = op ∧ CmdWord.byte3 (formatB4 op b0 b1 b2 b3) = b0 ∧
      CmdWord.byte2 (formatB4 op b0 b1 b2 b3) = b1 ∧ CmdWord.byte1 (formatB4 op b0 b1 b2 b3) = b2 ∧
      CmdWord.byte0 (formatB4 op b0 b1 b2 b3) = b3 := by
  unfold formatB4 CmdWord.op CmdWord.byte3 CmdWord.byte2 CmdWord.byte1 CmdWord.byte0
  obtain ⟨hop, hb0, -, -⟩ := Machine.extractLsb'_append_two_bytes op b0 b1 b2
  obtain ⟨-, hb1, hb2, hb3⟩ := Machine.extractLsb'_append_two_bytes (op ++ b0) b1 b2 b3
  refine ⟨?op, ?b0, hb1, hb2, hb3⟩
  case op => rw [BitVec.extractLsb'_append_eq_of_le (by decide)]; exact hop
  case b0 => rw [BitVec.extractLsb'_append_eq_of_le (by decide)]; exact hb0

theorem decode_of_encode {i : Instr} {w : CmdWord} (hword : encode i = some w) : decode w = .ok i := by
  cases i
  case crc8 b0 b1 b2 b3 =>
    obtain rfl : formatB4 opCrc8 b0 b1 b2 b3 = w := Option.some.inj hword
    obtain ⟨hop, hb0, hb1, hb2, hb3⟩ := fields_formatB4 opCrc8 b0 b1 b2 b3
    simp only [decode, hop, hb0, hb1, hb2, hb3, if_true]
  case encw reg word =>
    obtain rfl : formatRW opEncw reg word = w := Option.some.inj hword
    obtain ⟨hop, hzero, hreg, hlow⟩ := Machine.fields_formatRW opEncw reg word
    have hcrc8 : opEncw ≠ opCrc8 := by decide
    simp only [decode, hop, hzero, hreg, hlow, if_neg hcrc8, if_true]
  case decr lo hi => exact Option.some.inj hword ▸ Machine.decode_formatLH_opDecr hi lo
  case wrreg reg word => exact Option.some.inj hword ▸ Machine.decode_formatRW_opWrreg reg word
  case rdreg reg => exact Option.some.inj hword ▸ Machine.decode_formatR_opRdreg reg
  all_goals cases hword

/-- What the decoder accepts, and as what (R89 to R91). -/
theorem decode_cases {w : CmdWord} {i : Instr} (hdecode : decode w = .ok i) :
    (CmdWord.op w = opCrc8 ∧ i = .crc8 (CmdWord.byte3 w) (CmdWord.byte2 w) (CmdWord.byte1 w) (CmdWord.byte0 w)) ∨
    ((CmdWord.op w = opEncw ∧ CmdWord.byte3 w = 0) ∧ i = .encw (CmdWord.byte2 w) (CmdWord.low w)) ∨
    ((CmdWord.op w = opDecr ∧ CmdWord.high w = 0) ∧ i = .decr (CmdWord.byte0 w) (CmdWord.byte1 w)) ∨
    ((CmdWord.op w = opWrreg ∧ CmdWord.byte3 w = 0) ∧ i = .wrreg (CmdWord.byte2 w) (CmdWord.low w)) ∨
    ((CmdWord.op w = opRdreg ∧ CmdWord.byte3 w = 0 ∧ CmdWord.low w = 0) ∧ i = .rdreg (CmdWord.byte2 w)) := by
  unfold decode at hdecode
  split_ifs at hdecode with hcrc8 hencw hzero hdecr hzero hwrreg hzero hrdreg hzero
  all_goals cases hdecode
  · exact .inl ⟨hcrc8, rfl⟩
  · exact .inr (.inl ⟨⟨hencw, hzero⟩, rfl⟩)
  · exact .inr (.inr (.inl ⟨⟨hdecr, hzero⟩, rfl⟩))
  · exact .inr (.inr (.inr (.inl ⟨⟨hwrreg, hzero⟩, rfl⟩)))
  · exact .inr (.inr (.inr (.inr ⟨⟨hrdreg, hzero⟩, rfl⟩)))

theorem encode_crc8_fields {w : CmdWord} (hop : CmdWord.op w = opCrc8) :
    encode (.crc8 (CmdWord.byte3 w) (CmdWord.byte2 w) (CmdWord.byte1 w) (CmdWord.byte0 w)) = some w :=
  congrArg some (hop ▸ formatB4_fields w)

theorem encode_encw_fields {w : CmdWord} (hop : CmdWord.op w = opEncw) (hzero : CmdWord.byte3 w = 0) :
    encode (.encw (CmdWord.byte2 w) (CmdWord.low w)) = some w :=
  congrArg some (hop ▸ formatRW_fields hzero)

theorem encode_decr_fields {w : CmdWord} (hop : CmdWord.op w = opDecr) (hzero : CmdWord.high w = 0) :
    encode (.decr (CmdWord.byte0 w) (CmdWord.byte1 w)) = some w :=
  congrArg some (hop ▸ formatLH_fields hzero)

theorem encode_wrreg_fields {w : CmdWord} (hop : CmdWord.op w = opWrreg) (hzero : CmdWord.byte3 w = 0) :
    encode (.wrreg (CmdWord.byte2 w) (CmdWord.low w)) = some w :=
  congrArg some (hop ▸ formatRW_fields hzero)

theorem encode_rdreg_fields {w : CmdWord} (hop : CmdWord.op w = opRdreg) (hbyte3 : CmdWord.byte3 w = 0)
    (hlow : CmdWord.low w = 0) : encode (.rdreg (CmdWord.byte2 w)) = some w := by
  have hword := formatRW_fields hbyte3
  rw [hop, hlow] at hword
  exact congrArg some hword

theorem encode_of_decode {w : CmdWord} {i : Instr} (hdecode : decode w = .ok i) : encode i = some w := by
  obtain ⟨hop, rfl⟩ | ⟨⟨hop, hzero⟩, rfl⟩ | ⟨⟨hop, hzero⟩, rfl⟩ | ⟨⟨hop, hzero⟩, rfl⟩ |
    ⟨⟨hop, hbyte3, hlow⟩, rfl⟩ := decode_cases hdecode
  · exact encode_crc8_fields hop
  · exact encode_encw_fields hop hzero
  · exact encode_decr_fields hop hzero
  · exact encode_wrreg_fields hop hzero
  · exact encode_rdreg_fields hop hbyte3 hlow

theorem exists_encode_iff (i : Instr) : (∃ w, encode i = some w) ↔ i.isCommand = true := by
  cases i
  case crc8 | encw | decr | wrreg | rdreg => exact ⟨fun _ => rfl, fun _ => ⟨_, rfl⟩⟩
  all_goals simp [encode, Instr.isCommand]

/-- Settles O34: the fields of each command's format are its operands, and the encoder's cases are the commands. -/
theorem decodeOfEncode : Obligations.DecodeOfEncode := by
  unfold Obligations.DecodeOfEncode
  exact ⟨fun _ _ => decode_of_encode, exists_encode_iff⟩

/-- Settles O35: in each accepting branch of the decoder the word is the format of its own fields. -/
theorem encodeOfDecode : Obligations.EncodeOfDecode := by
  unfold Obligations.EncodeOfDecode
  exact fun _ _ => encode_of_decode

/-- A mask compares the fields of a word one by one. -/
theorem MapRow.selects_iff (r : MapRow) (w : CmdWord) :
    r.selects w = true ↔
      CmdWord.op w &&& CmdWord.op r.mask = CmdWord.op r.select ∧
      CmdWord.byte3 w &&& CmdWord.byte3 r.mask = CmdWord.byte3 r.select ∧
      CmdWord.byte2 w &&& CmdWord.byte2 r.mask = CmdWord.byte2 r.select ∧
      CmdWord.low w &&& CmdWord.low r.mask = CmdWord.low r.select := by
  simp only [CmdWord.op, CmdWord.byte3, CmdWord.byte2, CmdWord.low, ← BitVec.extractLsb'_and]
  rw [MapRow.selects, beq_iff_eq]
  constructor
  case mp => rintro h; simp only [h, and_self]
  case mpr => rintro ⟨hop, hbyte3, hbyte2, hlow⟩; exact CmdWord.ext_fields hop hbyte3 hbyte2 hlow


theorem selects_crc8_iff {r : MapRow} (hrow : r ∈ operationMap) (hname : r.mnemonic = "CRC8") (w : CmdWord) :
    r.selects w = true ↔ CmdWord.op w = opCrc8 := by
  obtain rfl : r = ⟨"CRC8", 0x100000000, 0x700000000⟩ := by revert r; decide
  rw [MapRow.selects_iff]
  change CmdWord.op w &&& BitVec.allOnes 3 = opCrc8 ∧ CmdWord.byte3 w &&& 0#8 = 0#8 ∧
    CmdWord.byte2 w &&& 0#8 = 0#8 ∧ CmdWord.low w &&& 0#16 = 0#16 ↔ _
  simp only [BitVec.and_allOnes, BitVec.and_zero, and_true]

theorem selects_encw_iff {r : MapRow} (hrow : r ∈ operationMap) (hname : r.mnemonic = "ENCW") (w : CmdWord) :
    r.selects w = true ↔ CmdWord.op w = opEncw ∧ CmdWord.byte3 w = 0 := by
  obtain rfl : r = ⟨"ENCW", 0x200000000, 0x7FF000000⟩ := by revert r; decide
  rw [MapRow.selects_iff]
  change CmdWord.op w &&& BitVec.allOnes 3 = opEncw ∧ CmdWord.byte3 w &&& BitVec.allOnes 8 = 0 ∧
    CmdWord.byte2 w &&& 0#8 = 0#8 ∧ CmdWord.low w &&& 0#16 = 0#16 ↔ _
  simp only [BitVec.and_allOnes, BitVec.and_zero, and_true]

theorem CmdWord.high_eq_zero_iff (w : CmdWord) : CmdWord.high w = 0 ↔ CmdWord.byte3 w = 0 ∧ CmdWord.byte2 w = 0 := by
  have hhigh : CmdWord.high w = CmdWord.byte3 w ++ CmdWord.byte2 w := by
    unfold CmdWord.byte3 CmdWord.byte2
    rw [BitVec.extractLsb'_append_extractLsb'_eq_extractLsb' (by rfl)]
    rfl
  constructor
  case mp =>
    intro hzero
    have hbyte3 : (CmdWord.high w).extractLsb' 8 8 = CmdWord.byte3 w := hhigh ▸ BitVec.extractLsb'_append_eq_left
    have hbyte2 : (CmdWord.high w).extractLsb' 0 8 = CmdWord.byte2 w := hhigh ▸ BitVec.extractLsb'_append_eq_right
    rw [hzero] at hbyte3 hbyte2
    exact ⟨hbyte3.symm, hbyte2.symm⟩
  case mpr => rintro ⟨hbyte3, hbyte2⟩; rw [hhigh, hbyte3, hbyte2]; rfl

theorem selects_decr_iff {r : MapRow} (hrow : r ∈ operationMap) (hname : r.mnemonic = "DECR") (w : CmdWord) :
    r.selects w = true ↔ CmdWord.op w = opDecr ∧ CmdWord.high w = 0 := by
  obtain rfl : r = ⟨"DECR", 0x300000000, 0x7FFFF0000⟩ := by revert r; decide
  rw [MapRow.selects_iff]
  change CmdWord.op w &&& BitVec.allOnes 3 = opDecr ∧ CmdWord.byte3 w &&& BitVec.allOnes 8 = 0 ∧
    CmdWord.byte2 w &&& BitVec.allOnes 8 = 0 ∧ CmdWord.low w &&& 0#16 = 0#16 ↔ _
  simp only [BitVec.and_allOnes, BitVec.and_zero, and_true, CmdWord.high_eq_zero_iff]

theorem selects_wrreg_iff {r : MapRow} (hrow : r ∈ operationMap) (hname : r.mnemonic = "WRREG") (w : CmdWord) :
    r.selects w = true ↔ CmdWord.op w = opWrreg ∧ CmdWord.byte3 w = 0 := by
  obtain rfl : r = ⟨"WRREG", 0x400000000, 0x7FF000000⟩ := by revert r; decide
  rw [MapRow.selects_iff]
  change CmdWord.op w &&& BitVec.allOnes 3 = opWrreg ∧ CmdWord.byte3 w &&& BitVec.allOnes 8 = 0 ∧
    CmdWord.byte2 w &&& 0#8 = 0#8 ∧ CmdWord.low w &&& 0#16 = 0#16 ↔ _
  simp only [BitVec.and_allOnes, BitVec.and_zero, and_true]

theorem selects_rdreg_iff {r : MapRow} (hrow : r ∈ operationMap) (hname : r.mnemonic = "RDREG") (w : CmdWord) :
    r.selects w = true ↔ CmdWord.op w = opRdreg ∧ CmdWord.byte3 w = 0 ∧ CmdWord.low w = 0 := by
  obtain rfl : r = ⟨"RDREG", 0x500000000, 0x7FF00FFFF⟩ := by revert r; decide
  rw [MapRow.selects_iff]
  change CmdWord.op w &&& BitVec.allOnes 3 = opRdreg ∧ CmdWord.byte3 w &&& BitVec.allOnes 8 = 0 ∧
    CmdWord.byte2 w &&& 0#8 = 0#8 ∧ CmdWord.low w &&& BitVec.allOnes 16 = 0 ↔ _
  simp only [BitVec.and_allOnes, BitVec.and_zero, true_and]

theorem decode_of_selects {r : MapRow} {w : CmdWord} (hrow : r ∈ operationMap) (hselects : r.selects w = true) :
    ∃ i, decode w = .ok i ∧ i.mapMnemonic = some r.mnemonic := by
  have hrows := hrow
  simp only [operationMap, List.mem_cons, List.not_mem_nil, or_false] at hrows
  obtain rfl | rfl | rfl | rfl | rfl := hrows
  · have hop := (selects_crc8_iff hrow rfl w).mp hselects
    exact ⟨_, decode_of_encode (encode_crc8_fields hop), rfl⟩
  · obtain ⟨hop, hzero⟩ := (selects_encw_iff hrow rfl w).mp hselects
    exact ⟨_, decode_of_encode (encode_encw_fields hop hzero), rfl⟩
  · obtain ⟨hop, hzero⟩ := (selects_decr_iff hrow rfl w).mp hselects
    exact ⟨_, decode_of_encode (encode_decr_fields hop hzero), rfl⟩
  · obtain ⟨hop, hzero⟩ := (selects_wrreg_iff hrow rfl w).mp hselects
    exact ⟨_, decode_of_encode (encode_wrreg_fields hop hzero), rfl⟩
  · obtain ⟨hop, hbyte3, hlow⟩ := (selects_rdreg_iff hrow rfl w).mp hselects
    exact ⟨_, decode_of_encode (encode_rdreg_fields hop hbyte3 hlow), rfl⟩

theorem selects_of_decode {r : MapRow} {w : CmdWord} {i : Instr} (hrow : r ∈ operationMap) (hdecode : decode w = .ok i)
    (hname : i.mapMnemonic = some r.mnemonic) : r.selects w = true := by
  obtain ⟨hfields, rfl⟩ | ⟨hfields, rfl⟩ | ⟨hfields, rfl⟩ | ⟨hfields, rfl⟩ | ⟨hfields, rfl⟩ := decode_cases hdecode
  all_goals have hname := (Option.some.inj hname).symm
  · exact (selects_crc8_iff hrow hname w).mpr hfields
  · exact (selects_encw_iff hrow hname w).mpr hfields
  · exact (selects_decr_iff hrow hname w).mpr hfields
  · exact (selects_wrreg_iff hrow hname w).mpr hfields
  · exact (selects_rdreg_iff hrow hname w).mpr hfields

/-- Every command has its row. -/
theorem row_of_decode {w : CmdWord} {i : Instr} (hdecode : decode w = .ok i) :
    ∃ r ∈ operationMap, i.mapMnemonic = some r.mnemonic := by
  obtain ⟨-, rfl⟩ | ⟨-, rfl⟩ | ⟨-, rfl⟩ | ⟨-, rfl⟩ | ⟨-, rfl⟩ := decode_cases hdecode
  all_goals simp [operationMap, Instr.mapMnemonic]

/-- Every row's mask covers `op` (R90). -/
theorem MapRow.op_of_selects {r : MapRow} {w : CmdWord} (hrow : r ∈ operationMap) (hselects : r.selects w = true) :
    CmdWord.op w = CmdWord.op r.select := by
  have hmask : ∀ r ∈ operationMap, CmdWord.op r.mask = BitVec.allOnes 3 := by decide
  obtain ⟨hop, -, -, -⟩ := (r.selects_iff w).mp hselects
  rwa [hmask r hrow, BitVec.and_allOnes] at hop

/-- Settles O36: each row's mask leaves the fields the decoder tests, and the rows differ in `op`. -/
theorem decodeFollowsTheMap : Obligations.DecodeFollowsTheMap := by
  unfold Obligations.DecodeFollowsTheMap
  refine ⟨fun w r hrow => ⟨decode_of_selects hrow, ?decoded⟩, fun w r q hr hq hrselects hqselects => ?unique⟩
  case decoded =>
    rintro ⟨i, hdecode, hname⟩
    exact selects_of_decode hrow hdecode hname
  case unique =>
    have hdistinct : ∀ r ∈ operationMap, ∀ q ∈ operationMap, CmdWord.op r.select = CmdWord.op q.select → r = q := by decide
    exact hdistinct r hr q hq ((MapRow.op_of_selects hr hrselects).symm.trans (MapRow.op_of_selects hq hqselects))

/-- Settles O37: the decoder evaluated on the eight words. -/
theorem spelledOutWordsDecode : Obligations.SpelledOutWordsDecode := by
  unfold Obligations.SpelledOutWordsDecode
  decide

end Sys2Proof
end

section
/-! PROOF. The other forms of the byte step and the laws of the checksum (40_crc8.md section 3): the bit step is linear and one to one,
and everything else follows from that. -/

namespace Sys2Proof.Machine

/-- R111 without the branch: the bit that leaves the top chooses whether the polynomial is added. -/
theorem bitstep_eq_xor (c : Byte) : bitstep c = (c <<< 1) ^^^ (if highBit c then Config.crcPoly else 0) := by
  unfold bitstep
  split
  · rfl
  · exact BitVec.xor_zero.symm

theorem crcPoly_getLsbD {i : Nat} (hi : i < 8) : Config.crcPoly.getLsbD i = decide (i < 3) := by
  have hbits : ∀ i < 8, Config.crcPoly.getLsbD i = decide (i < 3) := by decide
  exact hbits i hi

/-- R114: each bit is its right neighbour, with bit 7 added where the polynomial has a bit. -/
theorem getLsbD_bitstep (c : Byte) {i : Nat} (hi : i < 8) :
    (bitstep c).getLsbD i = ((decide (0 < i) && c.getLsbD (i - 1)) ^^ (c.getLsbD 7 && decide (i < 3))) := by
  rw [bitstep_eq_xor, BitVec.getLsbD_xor, BitVec.getLsbD_shiftLeft]
  congr 1
  · simp [hi, Nat.pos_iff_ne_zero]
  · unfold highBit
    split
    case isTrue hhigh => rw [hhigh, crcPoly_getLsbD hi, Bool.true_and]
    case isFalse hlow =>
      rw [Bool.eq_false_of_not_eq_true hlow, Bool.false_and]
      exact BitVec.getLsbD_zero

/-- Settles O2: the eight bits of the bit step. -/
theorem bitStepFeedsBack : Obligations.BitStepFeedsBack := by
  unfold Obligations.BitStepFeedsBack
  intro c
  refine ⟨?_, ?_, ?_, ?_, ?_, ?_, ?_, ?_⟩
  all_goals
    rw [getLsbD_bitstep c (by decide)]
    simp

/-- R115's bit: an input bit added to the high bit before the step does what adding, beforehand, a byte with that high bit does, but for
that byte's own lower bits. -/
theorem bitstep_xor_of_highBit {b d : Byte} {i : Nat} (c : Byte) (hbit : highBit d = b.getLsbD i) :
    bitstep (c ^^^ d) = serialStep b c i ^^^ (d <<< 1) := by
  have hhigh : highBit (c ^^^ d) = (highBit c ^^ b.getLsbD i) := hbit ▸ BitVec.getLsbD_xor
  unfold bitstep serialStep
  rw [hhigh, BitVec.shiftLeft_xor_distrib]
  split <;> ac_rfl

/-- Settles O3: after `k` steps the two registers differ by the input byte shifted up `k` times, and after eight nothing is left of it. -/
theorem bitSerialFormIsTheByteStep : Obligations.BitSerialFormIsTheByteStep := by
  unfold Obligations.BitSerialFormIsTheByteStep
  intro c b
  have hstep (c : Byte) (k : Nat) (hk : k < 8) :
      bitstep (c ^^^ (b <<< k)) = serialStep b c (7 - k) ^^^ (b <<< (k + 1)) := by
    rw [bitstep_xor_of_highBit (i := 7 - k), ← BitVec.shiftLeft_add]
    rw [highBit, BitVec.getLsbD_shiftLeft]
    simp [show ¬7 < k by omega]
  have hstart : c ^^^ b = c ^^^ (b <<< 0) := by rw [BitVec.shiftLeft_zero]
  have hend : b <<< 8 = 0 := BitVec.shiftLeft_eq_zero (by decide)
  rw [bytestep, hstart]
  simp only [hstep, Nat.reduceLT, Nat.reduceAdd, Nat.reduceSub, hend]
  exact BitVec.xor_zero.symm

theorem bitstep_xor (c d : Byte) : bitstep (c ^^^ d) = bitstep c ^^^ bitstep d := by
  have hhigh : highBit (c ^^^ d) = (highBit c ^^ highBit d) := BitVec.getLsbD_xor
  have hfeedback (p q : Bool) (poly : Byte) :
      (if p ^^ q then poly else 0) = (if p then poly else 0) ^^^ (if q then poly else 0) := by
    cases p <;> cases q <;> simp
  simp only [bitstep_eq_xor, hhigh, BitVec.shiftLeft_xor_distrib, hfeedback]
  ac_rfl

/-- Bit 0 of the result tells whether the polynomial was added, so the byte before can be read back. -/
theorem bitstep_injective : Function.Injective bitstep := by
  intro c d heq
  have hbit {i : Nat} (hi : i < 8) : (bitstep c).getLsbD i = (bitstep d).getLsbD i := by rw [heq]
  have hhigh : c.getLsbD 7 = d.getLsbD 7 := by
    simpa only [getLsbD_bitstep _ (show 0 < 8 by decide), lt_irrefl, decide_false, Bool.false_and, Bool.false_bne,
      Nat.ofNat_pos, decide_true, Bool.and_true] using hbit (show 0 < 8 by decide)
  apply BitVec.eq_of_getLsbD_eq
  intro i hi
  obtain rfl | hlt := Nat.eq_or_lt_of_le (Nat.le_of_lt_succ hi)
  · exact hhigh
  · have hnext := hbit (Nat.succ_lt_succ hlt)
    rw [getLsbD_bitstep c (Nat.succ_lt_succ hlt), getLsbD_bitstep d (Nat.succ_lt_succ hlt), hhigh, Bool.xor_left_inj] at hnext
    simpa only [Nat.succ_pos, decide_true, Bool.true_and, Nat.succ_sub_one] using hnext

theorem bytestep_injective (c : Byte) : Function.Injective (bytestep c) := by
  intro b d heq
  rw [bytestep_eq_iterate, bytestep_eq_iterate] at heq
  exact (BitVec.xor_right_inj c).mp (bitstep_injective.iterate 8 heq)

theorem bytestep_comm (c b : Byte) : bytestep c b = bytestep b c := by
  rw [bytestep_eq_iterate, bytestep_eq_iterate, BitVec.xor_comm]

/-- The byte step takes the register and the byte only as their sum. -/
theorem bytestep_zero_left (c b : Byte) : bytestep 0 (c ^^^ b) = bytestep c b := by
  rw [bytestep_eq_iterate, bytestep_eq_iterate]
  exact congrArg _ (BitVec.zero_xor)

theorem bytestep_self (b : Byte) : bytestep b b = 0 := by
  rw [bytestep_eq_iterate, BitVec.xor_self]
  decide

/-- The printed table against the byte step, row by row (R116). -/
theorem crcTableAt_row : ∀ row col : BitVec 4, crcTableAt (row ++ col) = bytestep 0 (row ++ col) := by decide

theorem crcTableAt_eq (i : Byte) : crcTableAt i = bytestep 0 i := by
  have hdigits : i.extractLsb' 4 4 ++ i.extractLsb' 0 4 = i := BitVec.extractLsb'_append_extractLsb' (w := 4) (len := 4)
  rw [← hdigits]
  exact crcTableAt_row _ _

/-- Settles O4: the table is the byte step from zero, which is one to one. -/
theorem tableFormIsTheByteStep : Obligations.TableFormIsTheByteStep := by
  unfold Obligations.TableFormIsTheByteStep
  have htable : crcTableAt = bytestep 0 := funext crcTableAt_eq
  refine ⟨?length, fun i => ⟨crcTableAt_eq i, (crcTableAt_eq i).symm⟩, fun c b => ?look, ?permutation, rfl⟩
  case length => simp only [crcTable, List.length_append, List.length_cons, List.length_nil]
  case look => rw [bytestepTable, crcTableAt_eq, bytestep_zero_left]
  case permutation =>
    rw [htable]
    exact (bytestep_injective 0).bijective_of_finite

theorem bytestep_xor (c d x y : Byte) : bytestep (c ^^^ d) (x ^^^ y) = bytestep c x ^^^ bytestep d y := by
  have hiterate : ∀ n : Nat, ∀ a b : Byte, bitstep^[n] (a ^^^ b) = bitstep^[n] a ^^^ bitstep^[n] b := by
    intro n
    induction n with
    | zero => exact fun _ _ => rfl
    | succ n ih => intro a b; simp only [Function.iterate_succ_apply, bitstep_xor, ih]
  simp only [bytestep_eq_iterate, ← hiterate]
  congr 1
  ac_rfl

theorem foldl_bytestep_replicate_zero (n : Nat) : (List.replicate n 0).foldl bytestep 0 = 0 := by
  induction n with
  | zero => rfl
  | succ n ih => rw [List.replicate_succ, List.foldl_cons, bytestep_self, ih]

theorem foldl_bytestep_zipWith {u v : List Byte} (hlength : u.length = v.length) (c d : Byte) :
    (List.zipWith (· ^^^ ·) u v).foldl bytestep (c ^^^ d) = u.foldl bytestep c ^^^ v.foldl bytestep d := by
  induction u generalizing v c d with
  | nil => rw [List.eq_nil_of_length_eq_zero hlength.symm]; rfl
  | cons x u ih =>
    obtain ⟨y, v, rfl⟩ := List.exists_cons_of_length_eq_add_one hlength.symm
    simp only [List.zipWith_cons_cons, List.foldl_cons, bytestep_xor]
    exact ih (Nat.succ.inj hlength) _ _

theorem foldl_bytestep_injective (s : List Byte) : Function.Injective fun c => s.foldl bytestep c := by
  induction s with
  | nil => exact Function.injective_id
  | cons b s ih =>
    intro c d heq
    apply bytestep_injective b
    rw [bytestep_comm b, bytestep_comm b]
    exact ih heq

/-- R117 (e), the receiver's check: a sequence followed by its checksum. -/
theorem crc8_append_crc8 (s : List Byte) : crc8 (s ++ [crc8 s]) = 0 := by
  rw [crc8, List.foldl_append, List.foldl_cons, List.foldl_nil, ← crc8, bytestep_self]

/-- R117 (g): a change of one byte shows. -/
theorem crc8_ne_of_changed_byte (p s : List Byte) {x y : Byte} (hne : x ≠ y) : crc8 (p ++ x :: s) ≠ crc8 (p ++ y :: s) := by
  intro heq
  rw [crc8, crc8, List.foldl_append, List.foldl_append] at heq
  exact hne (bytestep_injective _ (foldl_bytestep_injective s heq))

/-- Settles O5: (a), (c) and (f) are the fold itself, the others its linearity and injectivity. -/
theorem checksumLaws : Obligations.ChecksumLaws := by
  unfold Obligations.ChecksumLaws
  refine ⟨rfl, fun s hzeros => ?zeros, fun s => ?leadingZero, fun u v hlength => ?linear, crc8_append_crc8,
    fun u v => List.foldl_append, fun p s x y => crc8_ne_of_changed_byte p s⟩
  case zeros =>
    rw [List.eq_replicate_of_mem hzeros]
    exact foldl_bytestep_replicate_zero _
  case leadingZero =>
    rw [crc8, List.foldl_cons]
    exact congrArg (s.foldl bytestep ·) (bytestep_self 0)
  case linear => exact foldl_bytestep_zipWith hlength 0 0

/-- Settles O6: the fold evaluated on the two sequences. -/
theorem checksumKnownValues : Obligations.ChecksumKnownValues := by
  unfold Obligations.ChecksumKnownValues
  simp [crc8, bytestep, bitstep, highBit, Config.crcPoly, Config.crcSeed]

end Sys2Proof.Machine
end

section
/-! PROOF. The commands that make no transport call, every field of the next state (40_crc8.md section 2, 41_frame_codec.md). -/

namespace Sys2Proof.Machine

/-- Settles O7: the checksum phase over the four operands, and completion. -/
theorem crc8Completes : Obligations.Crc8Completes := by
  unfold Obligations.Crc8Completes
  intro s b0 b1 b2 b3 hidle
  rw [exec, execCrc8, State.accept_eq_next_iff, State.checksum_eq]
  exact ⟨hidle, .inl rfl⟩

/-- Settles O8: the checksum phase over the frame of the word, and completion. -/
theorem encwCompletes : Obligations.EncwCompletes := by
  unfold Obligations.EncwCompletes
  intro s reg w hidle
  rw [exec_encw_of_idle reg w hidle, State.checksum_eq]
  rfl

/-- Settles O10: the four wire bytes end in the checksum of the bytes before them. -/
theorem encwPassesTheReceiversCheck : Obligations.EncwPassesTheReceiversCheck := by
  unfold Obligations.EncwPassesTheReceiversCheck
  intro s reg w hidle
  obtain ⟨t, hexec, h3, h2, h1, h0⟩ := encwComposesTheFrame s reg w hidle
  refine ⟨t, hexec, ?_⟩
  rw [h3, h2, h1, h0]
  exact crc8_append_crc8 [s.busAddrByte, reg, lowByte w, highByte w]

/-- Settles O11: the frame of register 62 and word 0000 at reset. -/
theorem zeroWordChecksumCanBeZero : Obligations.ZeroWordChecksumCanBeZero := by
  unfold Obligations.ZeroWordChecksumCanBeZero
  obtain ⟨t, hexec, -, -, -, hlast⟩ := encwComposesTheFrame State.reset 0x62 0 rfl
  obtain rfl := Host.Outcome.next.inj ((exec_encw_of_idle 0x62 0 rfl).symm.trans hexec)
  have hvalue : crc8 [0x16, 0x62, 0x00, 0x00] = 0 := by
    simp [crc8, bytestep, bitstep, highBit, Config.crcPoly, Config.crcSeed]
  exact ⟨_, hexec, rfl, hlast.trans hvalue⟩

/-- Settles O13: RXL, RXH and completion with the word they make. -/
theorem decrCompletes : Obligations.DecrCompletes := by
  unfold Obligations.DecrCompletes
  exact fun s lo hi hidle => exec_decr_of_idle lo hi hidle

/-- Settles O14: splitting and assembling a word undo each other. -/
theorem decrRoundTrip : Obligations.DecrRoundTrip := by
  unfold Obligations.DecrRoundTrip
  refine ⟨fun s v hidle => ⟨_, exec_decr_of_idle _ _ hidle, ?word⟩,
    fun s lo hi hidle => ⟨_, exec_decr_of_idle _ _ hidle, ?bytes⟩⟩
  case word => exact congrArg resOfWord (assembleWord_highByte_lowByte v)
  case bytes =>
    have hword : wordOfRes ((s.loadReply lo hi).completeWord).res = assembleWord hi lo := wordOfRes_resOfWord _
    rw [hword]
    exact ⟨lowByte_assembleWord hi lo, highByte_assembleWord hi lo⟩

end Sys2Proof.Machine
end

section
/-! PROOF. The two bus transactions, every field of the next state (42_bus_transactions.md R151 to R153, 70_reset_and_hazards.md R262), and
the transport's own state after them (10_state.md R35, log 17 and log 30). -/

namespace Sys2Proof.Machine

/-- Settles O18: the law of the write transaction, from acceptance. -/
theorem wrregCompletes : Obligations.WrregCompletes := by
  unfold Obligations.WrregCompletes
  exact fun _ _ _ _ _ _ _ _ _ _ _ _ _ _ _ => exec_wrreg_of_returns

/-- Settles O19: the law of the read transaction, from acceptance. -/
theorem rdregCompletes : Obligations.RdregCompletes := by
  unfold Obligations.RdregCompletes
  exact fun _ _ _ _ _ _ _ _ _ _ _ _ _ _ => exec_rdreg_of_returns

/-- The calls that return before the first that does not are the same however they are listed. -/
theorem returns_before_never_unique {as : List Answer} {rs qs : List (Bool × Byte)}
    (hrs : as.take (rs.length + 1) = rs.map (fun p => Answer.returns p.1 p.2) ++ [.never])
    (hqs : as.take (qs.length + 1) = qs.map (fun p => Answer.returns p.1 p.2) ++ [.never]) : rs = qs := by
  induction rs generalizing as qs with
  | nil =>
    obtain _ | ⟨a, as⟩ := as
    · cases hrs
    obtain _ | ⟨q, qs⟩ := qs
    · rfl
    · cases (List.cons.inj hrs).1.symm.trans (List.cons.inj hqs).1
  | cons r rs ih =>
    obtain _ | ⟨a, as⟩ := as
    · cases hrs
    obtain _ | ⟨q, qs⟩ := qs
    · cases (List.cons.inj hrs).1.symm.trans (List.cons.inj hqs).1
    simp only [List.length_cons, List.take_succ_cons, List.map_cons, List.cons_append, List.cons.injEq] at hrs hqs
    obtain ⟨hr, hrs⟩ := hrs
    obtain ⟨hq, hqs⟩ := hqs
    obtain ⟨hflag, hbyte⟩ := Answer.returns.inj (hr.symm.trans hq)
    rw [Prod.ext hflag hbyte, ih hrs hqs]

theorem never_mem_of_take {as : List Answer} {rs : List (Bool × Byte)}
    (hrs : as.take (rs.length + 1) = rs.map (fun p => Answer.returns p.1 p.2) ++ [.never]) : .never ∈ as := by
  have hmem : .never ∈ as.take (rs.length + 1) := by simp [hrs]
  exact List.mem_of_mem_take hmem

theorem State.writeRegister_waits {s : State} {reg : Byte} {w : Word} {rs : List (Bool × Byte)}
    (hnever : (s.oracle.replies s.draws (writeCalls s.devAddr s.busAddrByte reg w)).take (rs.length + 1) =
      rs.map (fun p => Answer.returns p.1 p.2) ++ [.never]) :
    s.writeRegister reg w = .error (s.waitingWrite reg w rs) := by
  obtain ⟨_, _, _, _, _, _, _, _, _, _, _, _, hreturns, -⟩ | ⟨qs, -, hwaits, herror⟩ := s.writeRegister_cases reg w
  · exact absurd (never_mem_of_take hnever) (by simp [hreturns])
  · rw [herror, returns_before_never_unique hnever hwaits]

theorem State.readRegister_waits {s : State} {reg : Byte} {rs : List (Bool × Byte)}
    (hnever : (s.oracle.replies s.draws (readCalls s.devAddr reg)).take (rs.length + 1) =
      rs.map (fun p => Answer.returns p.1 p.2) ++ [.never]) :
    s.readRegister reg = .error (s.waitingRead reg rs) := by
  obtain ⟨_, _, _, _, _, _, _, _, _, _, _, _, hreturns, -⟩ | ⟨qs, -, hwaits, herror⟩ := s.readRegister_cases reg
  · exact absurd (never_mem_of_take hnever) (by simp [hreturns])
  · rw [herror, returns_before_never_unique hnever hwaits]

/-- Settles O21: as many events as calls returned, since fewer than the six did. -/
theorem wrregWaitsInACall : Obligations.WrregWaitsInACall := by
  unfold Obligations.WrregWaitsInACall
  intro s reg w rs hidle hlen hnever
  refine ⟨?exec, rfl, rfl, rfl, ?events⟩
  case exec =>
    rw [exec, execWrreg, State.accept_eq_next_iff]
    exact ⟨hidle, .inr (State.writeRegister_waits hnever)⟩
  case events =>
    simp only [State.waitingWrite, List.length_append, List.length_zipWith, writeCalls_length, Nat.min_eq_right hlen.le]

/-- Settles O22: as many events as calls returned, since fewer than the six did. -/
theorem rdregWaitsInACall : Obligations.RdregWaitsInACall := by
  unfold Obligations.RdregWaitsInACall
  intro s reg rs hidle hlen hnever
  refine ⟨?exec, rfl, rfl, rfl, ?events⟩
  case exec =>
    rw [exec, execRdreg, State.accept_eq_next_iff]
    exact ⟨hidle, .inr (State.readRegister_waits hnever)⟩
  case events =>
    have hsix : (readCalls s.devAddr reg).length = 6 := rfl
    simp only [State.waitingRead, List.length_append, List.length_zipWith, hsix, Nat.min_eq_right hlen.le]

/-- The three calls that name the register, when they return. -/
theorem State.sendAddress_returns {s : State} {f0 f1 f2 : Bool} {b0 b1 b2 : Byte}
    (hreplies : s.oracle.replies s.draws [.begin s.devAddr, .write s.rega, .finish .nostop] =
      [.returns f0 b0, .returns f1 b1, .returns f2 b2]) :
    s.sendAddress = .ok { s with
      phase := .rdAddr
      draws := s.draws + 3
      oracle := s.oracle.afterCalls s.draws [.begin s.devAddr, .write s.rega, .finish .nostop]
      bus := s.bus.afterCalls s.draws [(.begin s.devAddr, f0), (.write s.rega, f1), (.finish .nostop, f2)]
      history := s.history ++ [⟨.begin s.devAddr, f0⟩, ⟨.write s.rega, f1⟩, ⟨.finish .nostop, f2⟩] } := by
  simp only [Oracle.replies, List.cons.injEq, and_true] at hreplies
  obtain ⟨h0, h1, h2⟩ := hreplies
  simp only [State.sendAddress, State.enter, State.tell, State.call, h0, h1, h2, bind, Except.bind, Oracle.afterCalls,
    Bus.afterCalls, Call.event, List.append_assoc, List.cons_append, List.nil_append]

/-- Once it has named the register, the read fetches its bytes and completes, or waits in a call of that. -/
theorem State.exec_rdreg_of_sendAddress {s u : State} {reg : Byte} (hidle : s.phase = .idle)
    (hsend : (s.loadRead reg).sendAddress = .ok u) :
    ∃ t, exec (.rdreg reg) s = .next t ∧ (u.fetchReply = .error t ∨ ∃ v, u.fetchReply = .ok v ∧ t = v.completeWord) := by
  have hrun : s.readRegister reg = u.fetchReply.map State.completeWord := by
    rw [State.readRegister, hsend]
    rfl
  simp only [exec, execRdreg, State.accept_eq_next_iff, hidle, hrun, true_and]
  cases u.fetchReply with
  | ok v => exact ⟨_, .inl rfl, .inr ⟨v, rfl, rfl⟩⟩
  | error t => exact ⟨t, .inr rfl, .inl rfl⟩

/-- A `T.begin` that is not flagged starts from a known state, whatever came before it (log 30). -/
theorem Bus.afterCalls_begin (b : Bus) (n : Nat) (a : DevAddr) (rest : List (Call × Bool)) :
    b.afterCalls n ((.begin a, false) :: rest) = Bus.afterCalls { b with transmitting := true, failed := false } (n + 1) rest := by
  simp only [Bus.afterCalls, Bus.after, Call.begins, Bool.not_true, Bool.and_false, Bool.or_false, Bool.false_eq_true, if_false]

/-- Settles O25: from the clean `T.begin` on the transport's own state is computed call by call. -/
theorem busIsReleasedAndHeld : Obligations.BusIsReleasedAndHeld := by
  unfold Obligations.BusIsReleasedAndHeld
  refine ⟨fun s reg w b0 b1 b2 b3 b4 b5 hidle hreplies => ?released, fun s reg b0 b1 b2 hidle hreplies => ?held⟩
  case released =>
    have hbus := s.bus.afterCalls_begin s.draws s.devAddr
    exact ⟨_, exec_wrreg_of_returns hidle hreplies, congrArg Bus.transmitting (hbus _), congrArg Bus.held (hbus _)⟩
  case held =>
    have hbus := s.bus.afterCalls_begin s.draws s.devAddr
    have hsend := State.sendAddress_returns (s := s.loadRead reg) hreplies
    obtain ⟨t, hexec, hfetch⟩ := State.exec_rdreg_of_sendAddress hidle hsend
    exact ⟨_, t, hsend, congrArg Bus.transmitting (hbus _), congrArg Bus.held (hbus _), hexec, hfetch⟩

/-- N39: an unknown state stays unknown to the end of the transaction, flagged or not. -/
theorem Bus.afterCalls_unknown (n : Nat) {calls : List (Call × Bool)} (hlater : ∀ p ∈ calls, p.1.begins = false) :
    (Bus.unknown n).afterCalls (n + 1) calls = Bus.unknown (n + calls.length) := by
  induction calls generalizing n with
  | nil => rfl
  | cons p calls ih =>
    obtain ⟨hp, hcalls⟩ := List.forall_mem_cons.mp hlater
    have hafter : (Bus.unknown n).after p.1 p.2 (n + 1) = Bus.unknown (n + 1) := by simp [Bus.after, Bus.unknown, hp]
    rw [Bus.afterCalls, hafter, ih (n + 1) hcalls, List.length_cons, Nat.add_right_comm, Nat.add_assoc]

/-- From the first flagged call on the state is unknown, whichever call it is. -/
theorem Bus.afterCalls_of_flagged (b : Bus) (n : Nat) {p : Call × Bool} {calls : List (Call × Bool)}
    (hlater : ∀ q ∈ calls, q.1.begins = false) (hflagged : ∃ q ∈ p :: calls, q.2 = true) :
    b.afterCalls n (p :: calls) = Bus.unknown (n + calls.length) := by
  induction calls generalizing b n p with
  | nil =>
    obtain ⟨c, tf⟩ := p
    obtain rfl : tf = true := by simpa using hflagged
    rfl
  | cons q calls ih =>
    obtain ⟨c, tf⟩ := p
    cases tf with
    | true => exact Bus.afterCalls_unknown n hlater
    | false =>
      have hrest : ∃ q' ∈ q :: calls, q'.2 = true := by simpa using hflagged
      rw [Bus.afterCalls, ih _ (n + 1) (List.forall_mem_cons.mp hlater).2 hrest, List.length_cons, Nat.add_right_comm,
        Nat.add_assoc]

/-- Settles O55: no call of a transaction but its first begins one. -/
theorem busIsUnknownAfterAFailure : Obligations.BusIsUnknownAfterAFailure := by
  unfold Obligations.BusIsUnknownAfterAFailure
  refine ⟨fun s reg w f0 f1 f2 f3 f4 f5 b0 b1 b2 b3 b4 b5 hidle hflag hreplies => ?write,
    fun s reg f0 f1 f2 f3 f4 f5 b0 b1 b2 b3 b4 b5 hidle hflag hreplies => ?read⟩
  case write =>
    have hbus := s.bus.afterCalls_of_flagged s.draws (p := (.begin s.devAddr, f0))
      (calls := (writeCalls s.devAddr s.busAddrByte reg w).tail.zip [f1, f2, f3, f4, f5])
      (by simp [writeCalls, Call.begins]) (by simpa [writeCalls, or_assoc] using hflag)
    exact ⟨_, exec_wrreg_of_returns hidle hreplies, hbus⟩
  case read =>
    have hbus := s.bus.afterCalls_of_flagged s.draws (p := (.begin s.devAddr, f0))
      (calls := (readCalls s.devAddr reg).tail.zip [f1, f2, f3, f4, f5])
      (by simp [readCalls, Call.begins]) (by simpa [readCalls, or_assoc] using hflag)
    exact ⟨_, exec_rdreg_of_returns hidle hreplies, hbus⟩

theorem Except.bind_eq_ok_iff {ε α β : Type} {x : Except ε α} {f : α → Except ε β} {b : β} :
    (x >>= f) = .ok b ↔ ∃ a, x = .ok a ∧ f a = .ok b := by
  cases x <;> simp [bind, Except.bind]

theorem State.call_phase {s t : State} {c : Call} {b : Byte} (hcall : s.call c = .ok (b, t)) : t.phase = s.phase := by
  obtain ⟨tf, b', -, hok⟩ | ⟨-, herror⟩ := s.call_cases c
  · rw [hok] at hcall; cases hcall; rfl
  · rw [herror] at hcall; cases hcall

theorem State.tell_phase {s t : State} {c : Call} (htell : s.tell c = .ok t) : t.phase = s.phase := by
  obtain ⟨⟨b, u⟩, hcall, hok⟩ := Except.bind_eq_ok_iff.mp htell
  cases hok
  exact State.call_phase hcall

theorem State.sendByte_phase {s t : State} {i : BitVec 3} {b : Byte} (hsend : s.sendByte i b = .ok t) : t.phase = s.phase :=
  State.tell_phase (s := { s with idx := i }) hsend

/-- Settles O45: the calls of an operation leave the phase it entered. -/
theorem phaseMoves : Obligations.PhaseMoves := by
  unfold Obligations.PhaseMoves
  intro s b0 b1 b2 b3 reg w r
  refine ⟨rfl, rfl, rfl, rfl, by rw [State.checksum_eq], fun t hsend => ?send, fun t haddress => ?address,
    fun t hfetch => ?fetch, rfl⟩
  case send =>
    simp only [State.sendWrite, Except.bind_eq_ok_iff] at hsend
    obtain ⟨s0, h0, s1, h1, s2, h2, s3, h3, s4, h4, h5⟩ := hsend
    rw [State.tell_phase h5, State.sendByte_phase h4, State.sendByte_phase h3, State.sendByte_phase h2, State.sendByte_phase h1,
      State.tell_phase h0, State.enter_phase]
  case address =>
    simp only [State.sendAddress, Except.bind_eq_ok_iff] at haddress
    obtain ⟨s0, h0, s1, h1, h2⟩ := haddress
    rw [State.tell_phase h2, State.tell_phase h1, State.tell_phase h0, State.enter_phase]
  case fetch =>
    simp only [State.fetchReply, Except.bind_eq_ok_iff] at hfetch
    obtain ⟨s0, h0, ⟨lo, s1⟩, h1, ⟨hi, s2⟩, h2, hok⟩ := hfetch
    obtain rfl := Except.ok.inj hok
    have hlast := State.call_phase h2
    have hfirst := State.call_phase h1
    exact hlast.trans (hfirst.trans (State.tell_phase h0))

end Sys2Proof.Machine
end

section
/-! PROOF. The named operations, every field of the next state (43_register_interface.md section 3): a named read or write is the one
command of its register, and INIT's three writes follow each other. -/

namespace Sys2Proof.Machine

/-- Settles O28: a named read completes as the read of its register. -/
theorem namedReadsComplete : Obligations.NamedReadsComplete := by
  unfold Obligations.NamedReadsComplete
  exact fun _ _ _ _ _ _ _ _ _ _ _ _ _ _ _ => exec_namedRead_of_returns

/-- Settles O29: a named write completes as the write of its register and word. -/
theorem namedWritesComplete : Obligations.NamedWritesComplete := by
  unfold Obligations.NamedWritesComplete
  exact fun _ _ _ _ _ _ _ _ _ _ _ _ _ _ _ _ => exec_namedWrite_of_returns

/-- Settles O32: at its pinned point the operation is the named write of 3700. -/
theorem alarmVoltagePin : Obligations.AlarmVoltagePin := by
  unfold Obligations.AlarmVoltagePin
  have hpin : voltsToWord (.finite 37 10) = 3700 := by
    rw [voltsToWord]
    exact if_pos (by decide)
  refine ⟨hpin, by decide, by decide, fun s f0 f1 f2 f3 f4 f5 b0 b1 b2 b3 b4 b5 hidle hreplies => ?_⟩
  exact exec_namedWrite_of_returns (n := .alarmVoltage) (congrArg (fun w => some (RegName.alarmVoltage, w)) hpin) hidle hreplies

theorem Oracle.afterCalls_append (o : Oracle) (n : Nat) (cs ds : List Call) :
    o.afterCalls n (cs ++ ds) = (o.afterCalls n cs).afterCalls (n + cs.length) ds := by
  induction cs generalizing o n with
  | nil => rfl
  | cons c cs ih => simp only [List.cons_append, Oracle.afterCalls, ih, List.length_cons, Nat.add_comm cs.length, Nat.add_assoc]

theorem Bus.afterCalls_append (b : Bus) (n : Nat) (cs ds : List (Call × Bool)) :
    b.afterCalls n (cs ++ ds) = (b.afterCalls n cs).afterCalls (n + cs.length) ds := by
  induction cs generalizing b n with
  | nil => rfl
  | cons c cs ih => simp only [List.cons_append, Bus.afterCalls, ih, List.length_cons, Nat.add_comm cs.length, Nat.add_assoc]

theorem State.afterWriteFlags_bus (s : State) (reg : Byte) (w : Word) {fs : List Bool} (hfs : fs.length = 6) :
    (s.afterWriteFlags reg w fs).bus =
      s.bus.afterCalls s.draws ((writeCalls s.devAddr s.busAddrByte reg w).zip fs) :=
  match fs, hfs with
  | [_, _, _, _, _, _], _ => rfl

@[simp] theorem State.afterWriteFlags_draws (s : State) (reg : Byte) (w : Word) (fs : List Bool) :
    (s.afterWriteFlags reg w fs).draws = s.draws + 6 := rfl

theorem State.afterInit_oracle (s : State) (fs : List Bool) :
    (s.afterInit fs).oracle = s.oracle.afterCalls s.draws (initCalls s.devAddr s.busAddrByte s.host) := by
  simp only [initCalls, Oracle.afterCalls_append, List.length_append, writeCalls_length]
  rfl

theorem State.afterInit_bus (s : State) {fs : List Bool} (hfs : fs.length = 18) :
    (s.afterInit fs).bus = s.bus.afterCalls s.draws ((initCalls s.devAddr s.busAddrByte s.host).zip fs) := by
  rw [initCalls, List.append_assoc, List.zip, zipWith_append_take_drop _ _ _ (by simp [hfs]),
    zipWith_append_take_drop _ _ _ (by simp [hfs])]
  simp [State.afterInit, State.afterWriteFlags_bus, hfs, Bus.afterCalls_append, List.zip]

/-- Settles O31: the registers are the third write's; the oracle, the bus and H are those after all 18 calls. -/
theorem initCompletes : Obligations.InitCompletes := by
  unfold Obligations.InitCompletes
  intro s fs bs calls hidle hfs hbs hreplies
  have hcompletions : s.completions ++ [0, 0, 0] = s.completions ++ [0] ++ [0] ++ [0] := by simp
  have hcalls : calls = initCalls s.devAddr s.busAddrByte s.host := rfl
  rw [exec_init_of_returns hidle hfs hbs hreplies, hcompletions, hcalls, ← s.afterInit_history hfs, ← s.afterInit_bus hfs,
    ← s.afterInit_oracle fs]
  rfl

end Sys2Proof.Machine
end

section
/-! PROOF. An operation is the commands it expands to, put to the block in order, and then its result (43_register_interface.md sections 1
and 2): the one equation for `exec`, which the statements about every operation use. -/

namespace Sys2Proof.Machine

/-- A command once it is accepted (R110, R130, R135, R151, R153); a named operation is no command. -/
def runCommand : Instr → State → Except State State
  | .crc8 b0 b1 b2 b3, s =>
    let t := (s.loadBytes b0 b1 b2 b3).checksum
    .ok (t.complete (resOfByte t.frame.c))
  | .encw reg w, s =>
    let t := (s.loadWrite reg w).checksum
    .ok (t.complete (resOfWire t.frame))
  | .decr lo hi, s => .ok (s.loadReply lo hi).completeWord
  | .wrreg reg w, s => s.writeRegister reg w
  | .rdreg reg, s => s.readRegister reg
  | _, s => .ok s

theorem exec_command {c : Instr} (hcommand : c.isCommand = true) (s : State) : exec c s = s.accept (runCommand c) := by
  cases c
  case crc8 | encw | decr | wrreg | rdreg => rfl
  all_goals cases hcommand

/-- Commands one after another; the first that waits is the last (R262). -/
def runCommands : List Instr → State → Except State State
  | [], s => .ok s
  | c :: cs, s => runCommand c s >>= runCommands cs

/-- What an operation gives its caller (R181, R198, R199), from the state its last command left. -/
def giveResult (p : HostParams) (i : Instr) (t : State) : State :=
  if i.isCommand then t
  else
    match expand p i with
    | [c] => { t with hostResult := resultOf c t }
    | _ => { t with hostResult := .success }

theorem runCommands_singleton (c : Instr) (s : State) : runCommands [c] s = runCommand c s :=
  bind_pure (runCommand c s)

theorem expansion (i : Instr) : Laws.Expansion.Statement i := by
  cases i
  case crc8 b0 b1 b2 b3 => exact Laws.Expansion.crc8 b0 b1 b2 b3
  case encw reg w => exact Laws.Expansion.encw reg w
  case decr lo hi => exact Laws.Expansion.decr lo hi
  case wrreg reg w => exact Laws.Expansion.wrreg reg w
  case rdreg reg => exact Laws.Expansion.rdreg reg
  case init => exact Laws.Expansion.init
  case getVersion | getVoltage | getIte | getRsoc | getTemp | getThermB => exact Laws.Expansion.of_read rfl fun _ => rfl
  all_goals exact Laws.Expansion.of_write rfl fun _ => rfl

/-- R180: a named operation is INIT, a named read or a named write. -/
theorem named_cases {i : Instr} (hnamed : i.isCommand = false) :
    i = .init ∨ (∃ n, namedRead i = some n) ∨ ∃ n w, namedWrite i = some (n, w) := by
  cases i
  case crc8 | encw | decr | wrreg | rdreg => cases hnamed
  case init => exact .inl rfl
  case getVersion | getVoltage | getIte | getRsoc | getTemp | getThermB => exact .inr (.inl ⟨_, rfl⟩)
  all_goals exact .inr (.inr ⟨_, _, rfl⟩)

theorem State.accept_congr {s : State} {run run' : State → Except State State} (heq : run s = run' s) :
    s.accept run = s.accept run' := by
  rw [State.accept, State.accept, heq]

theorem State.writeRegister_host {s t : State} {reg : Byte} {w : Word} (hok : s.writeRegister reg w = .ok t) :
    t.host = s.host := by
  obtain ⟨f0, f1, f2, f3, f4, f5, -, -, -, -, -, -, -, hreturns⟩ | ⟨rs, -, -, hwaits⟩ := s.writeRegister_cases reg w
  · obtain rfl := Except.ok.inj (hreturns.symm.trans hok)
    rfl
  · cases hwaits.symm.trans hok

/-- INIT takes its later operands from the host's parameters after the writes before, which are those it began with. -/
theorem exec_init (s : State) :
    exec .init s = s.accept fun s => (runCommands (expand s.host .init) s).map (giveResult s.host .init) := by
  apply State.accept_congr
  simp only [expand, runCommands, runCommand]
  cases h1 : s.writeRegister s.host.regPowerMode s.host.pmOperate with
  | error _ => rfl
  | ok s1 =>
    simp only [bind, Except.bind, State.writeRegister_host h1]
    cases h2 : s1.writeRegister s.host.regApa s.host.apaDefault with
    | error _ => rfl
    | ok s2 =>
      simp only [State.writeRegister_host h2, State.writeRegister_host h1]
      cases s2.writeRegister s.host.regStatusBit s.host.tmThermistor <;> rfl

theorem giveResult_of_command {i : Instr} (p : HostParams) (hcommand : i.isCommand = true) : giveResult p i = id :=
  funext fun _ => if_pos hcommand

theorem giveResult_of_expand {i c : Instr} {p : HostParams} (hnamed : i.isCommand = false) (hexpand : expand p i = [c]) :
    giveResult p i = fun t => { t with hostResult := resultOf c t } := by
  funext t
  simp only [giveResult, hnamed, hexpand]
  rfl

/-- R180: an operation is its commands and its result. -/
theorem exec_eq_accept (i : Instr) (s : State) :
    exec i s = s.accept fun s => (runCommands (expand s.host i) s).map (giveResult s.host i) := by
  cases hkind : i.isCommand with
  | true =>
    obtain ⟨-, -, hself⟩ := expansion i s.host
    rw [exec_command hkind]
    apply State.accept_congr
    rw [hself hkind, runCommands_singleton, giveResult_of_command _ hkind]
    cases runCommand i s <;> rfl
  | false =>
    obtain rfl | ⟨n, hread⟩ | ⟨n, w, hwrite⟩ := named_cases hkind
    · exact exec_init s
    · obtain ⟨hexpand, hexec⟩ := expand_and_exec_of_namedRead s hread
      rw [hexec]
      apply State.accept_congr
      rw [giveResult_of_expand hkind hexpand, hexpand, runCommands_singleton, State.hostRead, runCommand]
      cases s.readRegister (s.host.addr n) <;> rfl
    · obtain ⟨hexpand, hexec⟩ := expand_and_exec_of_namedWrite s hwrite
      rw [hexec]
      apply State.accept_congr
      rw [giveResult_of_expand hkind hexpand, hexpand, runCommands_singleton, State.hostWrite, runCommand]
      cases s.writeRegister (s.host.addr n) w <;> rfl

theorem Except.map_eq_ok_iff {ε α β : Type} {x : Except ε α} {f : α → β} {b : β} :
    x.map f = .ok b ↔ ∃ a, x = .ok a ∧ f a = b := by
  cases x <;> simp [Except.map]

theorem Except.map_eq_error_iff {ε α β : Type} {x : Except ε α} {f : α → β} {e : ε} : x.map f = .error e ↔ x = .error e := by
  cases x <;> simp [Except.map]

/-- What an operation can answer: it is accepted from IDLE, and then its commands complete and its result is given, or one waits. -/
theorem exec_eq_next_iff {i : Instr} {s t : State} :
    exec i s = .next t ↔ s.phase = .idle ∧
      ((∃ u, runCommands (expand s.host i) s = .ok u ∧ giveResult s.host i u = t) ∨
        runCommands (expand s.host i) s = .error t) := by
  rw [exec_eq_accept, State.accept_eq_next_iff, Except.map_eq_ok_iff, Except.map_eq_error_iff]

theorem State.accept_eq_refused_iff {s : State} {run : State → Except State State} {r : Refusal} :
    s.accept run = .refused r ↔ s.phase ≠ .idle ∧ r = .busy := by
  unfold State.accept
  split
  case isTrue hidle => cases run s <;> simp [hidle]
  case isFalse hbusy => simp [hbusy, eq_comm]

/-- Settles O40: every operation is presented for acceptance. -/
theorem busyBlockRefuses : Obligations.BusyBlockRefuses := by
  unfold Obligations.BusyBlockRefuses
  intro i s hbusy
  rw [exec_eq_accept]
  exact State.accept_eq_refused_iff.mpr ⟨hbusy, rfl⟩

end Sys2Proof.Machine
end

section
/-! PROOF. What a command can leave, completed or waiting, said once; the statements about every command, and by composition those about
every operation, follow from it. -/

namespace Sys2Proof.Machine

/-- What a command leaves when it completes. -/
structure Completed (c : Instr) (s t : State) : Prop where
  phase : t.phase = .idle
  awaiting : t.awaiting = s.awaiting
  devAddr : t.devAddr = s.devAddr
  busAddrByte : t.busAddrByte = s.busAddrByte
  host : t.host = s.host
  completions : t.completions = s.completions ++ [t.res]
  history : ∃ es, t.history = s.history ++ es ∧
    es.map (fun l => l.event.shape) = (commandCalls s.devAddr s.busAddrByte c).map (Call.event 0)
  draws : t.draws = s.draws + (commandCalls s.devAddr s.busAddrByte c).length
  oracle : t.oracle = s.oracle.afterCalls s.draws (commandCalls s.devAddr s.busAddrByte c)
  bus : commandCalls s.devAddr s.busAddrByte c = [] → t.bus = s.bus
  idx : t.idx = s.idx ∨ t.idx = 4
  bitcnt : t.bitcnt = s.bitcnt ∨ t.bitcnt = 8

/-- What a command leaves when it waits in a call (R262). -/
structure Waiting (s t : State) : Prop where
  awaiting : ∃ call, t.awaiting = some call ∧ t.phase.awaits call = true
  devAddr : t.devAddr = s.devAddr
  busAddrByte : t.busAddrByte = s.busAddrByte
  host : t.host = s.host
  completions : t.completions = s.completions
  res : t.res = s.res
  history : ∃ es, t.history = s.history ++ es ∧ t.draws = s.draws + (es.length + 1)
  oracle : ∃ calls, t.oracle = s.oracle.afterCalls s.draws calls
  idx : t.idx = s.idx ∨ t.idx ≤ 4
  bitcnt : t.bitcnt = s.bitcnt ∨ t.bitcnt = 8

theorem Phase.idle_awaits (c : Call) : Phase.idle.awaits c = false := rfl

theorem Waiting.phase_ne_idle {s t : State} (h : Waiting s t) : t.phase ≠ .idle := by
  obtain ⟨c, -, hawaits⟩ := h.awaiting
  intro hidle
  rw [hidle, Phase.idle_awaits] at hawaits
  cases hawaits

theorem State.waitingWrite_waiting (s : State) (reg : Byte) (w : Word) {rs : List (Bool × Byte)} (hlen : rs.length < 6) :
    Waiting s (s.waitingWrite reg w rs) where
  awaiting := by
    simp only [State.waitingWrite, writeCalls]
    generalize rs.length = n at hlen
    interval_cases n <;> exact ⟨_, rfl, rfl⟩
  devAddr := rfl
  busAddrByte := rfl
  host := rfl
  completions := rfl
  res := rfl
  history := ⟨_, rfl, by
    simp only [State.waitingWrite, List.length_zipWith, writeCalls_length, Nat.min_eq_right hlen.le]⟩
  oracle := ⟨_, rfl⟩
  idx := by
    right
    simp only [State.waitingWrite]
    generalize rs.length = n at hlen
    interval_cases n <;> decide
  bitcnt := .inr rfl

theorem State.waitingRead_waiting (s : State) (reg : Byte) {rs : List (Bool × Byte)} (hlen : rs.length < 6) :
    Waiting s (s.waitingRead reg rs) where
  awaiting := by
    simp only [State.waitingRead, readCalls]
    generalize rs.length = n at hlen
    interval_cases n <;> exact ⟨_, rfl, rfl⟩
  devAddr := rfl
  busAddrByte := rfl
  host := rfl
  completions := rfl
  res := rfl
  history := ⟨_, rfl, by
    have hsix : (readCalls s.devAddr reg).length = 6 := rfl
    simp only [State.waitingRead, List.length_zipWith, hsix, Nat.min_eq_right hlen.le]⟩
  oracle := ⟨_, rfl⟩
  idx := .inl rfl
  bitcnt := .inl rfl

/-- CRC8 and ENCW leave the counters where the checksum phase rests them (log 21), DECR and RDREG as they were. -/
theorem runCommand_completed {c : Instr} {s t : State} (hcommand : c.isCommand = true) (hok : runCommand c s = .ok t) :
    Completed c s t := by
  cases c
  case crc8 b0 b1 b2 b3 =>
    obtain rfl := Except.ok.inj hok
    rw [State.checksum_eq]
    exact ⟨rfl, rfl, rfl, rfl, rfl, rfl, ⟨[], (List.append_nil _).symm, rfl⟩, rfl, rfl, fun _ => rfl, .inr rfl, .inr rfl⟩
  case encw reg w =>
    obtain rfl := Except.ok.inj hok
    rw [State.checksum_eq]
    exact ⟨rfl, rfl, rfl, rfl, rfl, rfl, ⟨[], (List.append_nil _).symm, rfl⟩, rfl, rfl, fun _ => rfl, .inr rfl, .inr rfl⟩
  case decr lo hi =>
    obtain rfl := Except.ok.inj hok
    exact ⟨rfl, rfl, rfl, rfl, rfl, rfl, ⟨[], (List.append_nil _).symm, rfl⟩, rfl, rfl, fun _ => rfl, .inl rfl, .inl rfl⟩
  case wrreg reg w =>
    obtain ⟨f0, f1, f2, f3, f4, f5, -, -, -, -, -, -, -, hreturns⟩ | ⟨rs, -, -, hwaits⟩ := s.writeRegister_cases reg w
    · obtain rfl := Except.ok.inj (hreturns.symm.trans hok)
      exact ⟨rfl, rfl, rfl, rfl, rfl, rfl, ⟨_, rfl, rfl⟩, rfl, rfl, fun hnone => (List.cons_ne_nil _ _ hnone).elim, .inr rfl,
        .inr rfl⟩
    · cases hwaits.symm.trans hok
  case rdreg reg =>
    obtain ⟨f0, f1, f2, f3, f4, f5, -, -, -, -, lo, hi, -, hreturns⟩ | ⟨rs, -, -, hwaits⟩ := s.readRegister_cases reg
    · obtain rfl := Except.ok.inj (hreturns.symm.trans hok)
      exact ⟨rfl, rfl, rfl, rfl, rfl, rfl, ⟨_, rfl, rfl⟩, rfl, rfl, fun hnone => (List.cons_ne_nil _ _ hnone).elim, .inl rfl,
        .inl rfl⟩
    · cases hwaits.symm.trans hok
  all_goals cases hcommand

theorem runCommand_waiting {c : Instr} {s t : State} (herror : runCommand c s = .error t) : Waiting s t := by
  cases c
  case wrreg reg w =>
    obtain ⟨_, _, _, _, _, _, _, _, _, _, _, _, -, hreturns⟩ | ⟨rs, hlen, -, hwaits⟩ := s.writeRegister_cases reg w
    · cases hreturns.symm.trans herror
    · obtain rfl := Except.error.inj (hwaits.symm.trans herror)
      exact s.waitingWrite_waiting reg w hlen
  case rdreg reg =>
    obtain ⟨_, _, _, _, _, _, _, _, _, _, _, _, -, hreturns⟩ | ⟨rs, hlen, -, hwaits⟩ := s.readRegister_cases reg
    · cases hreturns.symm.trans herror
    · obtain rfl := Except.error.inj (hwaits.symm.trans herror)
      exact s.waitingRead_waiting reg hlen
  all_goals cases herror

/-- A command that is accepted completes or waits. -/
theorem exec_command_cases {c : Instr} {s t : State} (hcommand : c.isCommand = true) (hexec : exec c s = .next t) :
    Completed c s t ∨ Waiting s t := by
  rw [exec_command hcommand, State.accept_eq_next_iff] at hexec
  obtain ⟨-, hok | herror⟩ := hexec
  · exact .inl (runCommand_completed hcommand hok)
  · exact .inr (runCommand_waiting herror)

/-- Settles O23: only a completed command is in IDLE, and its events have the shapes of its calls. -/
theorem eventShapeIsFixed : Obligations.EventShapeIsFixed := by
  unfold Obligations.EventShapeIsFixed
  intro i s t hcommand hexec hidle
  obtain hdone | hwait := exec_command_cases hcommand hexec
  · obtain ⟨es, hhistory, hshapes⟩ := hdone.history
    refine ⟨by rw [hhistory, List.map_append, hshapes], hdone.draws, hdone.oracle, fun hnone => ⟨?_, hdone.bus hnone⟩⟩
    rw [hnone, List.map_nil, List.map_eq_nil_iff] at hshapes
    rw [hhistory, hshapes, List.append_nil]
  · exact absurd hidle hwait.phase_ne_idle

/-- Settles O24: a completed command is in IDLE and has presented RES; one that waits is not and has not. -/
theorem oneCompletionPerCommand : Obligations.OneCompletionPerCommand := by
  unfold Obligations.OneCompletionPerCommand
  intro i s t hcommand hexec
  obtain hdone | hwait := exec_command_cases hcommand hexec
  · exact ⟨fun _ => hdone.completions, fun hbusy => absurd hdone.phase hbusy⟩
  · exact ⟨fun hidle => absurd hidle hwait.phase_ne_idle, fun _ => ⟨hwait.completions, hwait.res⟩⟩

/-- Settles O33: the one command of the operation completes, waits or is refused, and the result follows a completion alone. -/
theorem namedOperationsExpand : Obligations.NamedOperationsExpand := by
  unfold Obligations.NamedOperationsExpand
  intro i c s hnamed hexpand
  obtain ⟨-, hcommands, -⟩ := expansion i s.host
  have hcommand : c.isCommand = true := (hcommands c (by simp [hexpand])).1
  have hresult := giveResult_of_expand hnamed hexpand
  have hexec_iff {t : State} : exec i s = .next t ↔ s.phase = .idle ∧
      ((∃ u, runCommand c s = .ok u ∧ { u with hostResult := resultOf c u } = t) ∨ runCommand c s = .error t) := by
    rw [exec_eq_next_iff, hexpand, runCommands_singleton, hresult]
  refine ⟨fun t hexec hidle => ?completes, fun t hexec hbusy => ?waits, fun r hrefused => ?refused⟩
  case completes =>
    rw [exec_command hcommand, State.accept_eq_next_iff] at hexec
    obtain ⟨hstart, hok | herror⟩ := hexec
    · exact hexec_iff.mpr ⟨hstart, .inl ⟨t, hok, rfl⟩⟩
    · exact absurd hidle (runCommand_waiting herror).phase_ne_idle
  case waits =>
    rw [exec_command hcommand, State.accept_eq_next_iff] at hexec
    obtain ⟨hstart, hok | herror⟩ := hexec
    · exact absurd (runCommand_completed hcommand hok).phase hbusy
    · exact hexec_iff.mpr ⟨hstart, .inr herror⟩
  case refused =>
    rw [exec_command hcommand] at hrefused
    rw [exec_eq_accept]
    exact State.accept_eq_refused_iff.mpr (State.accept_eq_refused_iff.mp hrefused)

end Sys2Proof.Machine
end

section
/-! PROOF. What every operation keeps (10_state.md, 20_memory.md section 7, 70_reset_and_hazards.md): the facts about one command compose
along the commands of an operation, and a step adds to them only waiting for the host and the reset input. -/

namespace Sys2Proof.Machine

/-- What every operation keeps, and the two ways it ends. -/
structure Keeps (s t : State) : Prop where
  ends : (t.phase = .idle ∧ t.awaiting = s.awaiting) ∨ ∃ call, t.awaiting = some call ∧ t.phase.awaits call = true
  devAddr : t.devAddr = s.devAddr
  busAddrByte : t.busAddrByte = s.busAddrByte
  host : t.host = s.host
  completions : s.completions <+: t.completions
  history : ∃ es, t.history = s.history ++ es ∧ s.draws + es.length ≤ t.draws
  oracle : s.oracle.wf = true → t.oracle.wf = true
  idx : s.idx ≤ 4 → t.idx ≤ 4
  bitcnt : s.bitcnt ≤ 8 → t.bitcnt ≤ 8

theorem Stub.close_wf {d : Stub} (how : StopBit) (hwf : d.mem.wf = true) : (d.close how).mem.wf = true := by
  unfold Stub.close
  split
  · split
    · exact Memory.wf_writeWord _ _ hwf
    · exact hwf
  · exact hwf
  · exact hwf

/-- Only the end of a transmission writes the stub's array. -/
theorem Stub.answer_wf {d : Stub} (c : Call) (spare : Byte) (hwf : d.mem.wf = true) : (d.answer c spare).2.mem.wf = true := by
  cases c with
  | begin a => exact hwf
  | write b => exact hwf
  | finish how => exact Stub.close_wf how hwf
  | request a n => exact hwf
  | read =>
    rw [Stub.answer]
    split <;> exact hwf

theorem Oracle.answer_wf {o : Oracle} (c : Call) (n : Nat) (hwf : o.wf = true) : (o.answer c n).2.wf = true := by
  match o with
  | .free [] => rfl
  | .free (_ :: _) => rfl
  | .stub d => exact Stub.answer_wf c _ hwf

theorem Oracle.afterCalls_wf {o : Oracle} (n : Nat) (calls : List Call) (hwf : o.wf = true) :
    (o.afterCalls n calls).wf = true := by
  induction calls generalizing o n with
  | nil => exact hwf
  | cons c calls ih => exact ih (n + 1) (Oracle.answer_wf c n hwf)

theorem Keeps.refl {s : State} (hidle : s.phase = .idle) : Keeps s s :=
  ⟨.inl ⟨hidle, rfl⟩, rfl, rfl, rfl, List.prefix_rfl, ⟨[], (List.append_nil _).symm, le_rfl⟩, id, id, id⟩

theorem Keeps.of_completed {c : Instr} {s t : State} (h : Completed c s t) : Keeps s t where
  ends := .inl ⟨h.phase, h.awaiting⟩
  devAddr := h.devAddr
  busAddrByte := h.busAddrByte
  host := h.host
  completions := ⟨_, h.completions.symm⟩
  history := by
    obtain ⟨es, hhistory, hshapes⟩ := h.history
    have hlength : es.length = (commandCalls s.devAddr s.busAddrByte c).length := by simpa using congrArg List.length hshapes
    exact ⟨es, hhistory, (hlength ▸ h.draws).ge⟩
  oracle := fun hwf => h.oracle ▸ Oracle.afterCalls_wf _ _ hwf
  idx := fun hle => h.idx.elim (fun heq => heq ▸ hle) fun heq => heq ▸ BitVec.le_refl _
  bitcnt := fun hle => h.bitcnt.elim (fun heq => heq ▸ hle) fun heq => heq ▸ BitVec.le_refl _

theorem Keeps.of_waiting {s t : State} (h : Waiting s t) : Keeps s t where
  ends := .inr h.awaiting
  devAddr := h.devAddr
  busAddrByte := h.busAddrByte
  host := h.host
  completions := h.completions ▸ List.prefix_rfl
  history := by
    obtain ⟨es, hhistory, hdraws⟩ := h.history
    exact ⟨es, hhistory, by omega⟩
  oracle := by
    obtain ⟨calls, horacle⟩ := h.oracle
    exact fun hwf => horacle ▸ Oracle.afterCalls_wf _ _ hwf
  idx := fun hle => h.idx.elim (fun heq => heq ▸ hle) id
  bitcnt := fun hle => h.bitcnt.elim (fun heq => heq ▸ hle) fun heq => heq ▸ BitVec.le_refl _

theorem Keeps.trans {s t u : State} (hst : Keeps s t) (hidle : t.phase = .idle) (htu : Keeps t u) : Keeps s u where
  ends := by
    obtain ⟨-, hawaiting⟩ | ⟨call, -, hawaits⟩ := hst.ends
    · exact hawaiting ▸ htu.ends
    · rw [hidle, Phase.idle_awaits] at hawaits
      cases hawaits
  devAddr := htu.devAddr.trans hst.devAddr
  busAddrByte := htu.busAddrByte.trans hst.busAddrByte
  host := htu.host.trans hst.host
  completions := hst.completions.trans htu.completions
  history := by
    obtain ⟨es, hes, hdraws⟩ := hst.history
    obtain ⟨fs, hfs, hdraws'⟩ := htu.history
    exact ⟨es ++ fs, by rw [hfs, hes, List.append_assoc], by rw [List.length_append]; omega⟩
  oracle := htu.oracle ∘ hst.oracle
  idx := htu.idx ∘ hst.idx
  bitcnt := htu.bitcnt ∘ hst.bitcnt

theorem giveResult_eq (p : HostParams) (i : Instr) (t : State) : ∃ r, giveResult p i t = { t with hostResult := r } := by
  unfold giveResult
  split
  · exact ⟨t.hostResult, rfl⟩
  · split
    · exact ⟨_, rfl⟩
    · exact ⟨_, rfl⟩

theorem Keeps.withResult {s t : State} (h : Keeps s t) (r : HostResult) : Keeps s { t with hostResult := r } :=
  ⟨h.ends, h.devAddr, h.busAddrByte, h.host, h.completions, h.history, h.oracle, h.idx, h.bitcnt⟩

/-- The commands of an operation compose: each but the last leaves the block idle for the next. -/
theorem runCommands_keeps {cs : List Instr} {s t : State} (hcommands : ∀ c ∈ cs, c.isCommand = true) (hidle : s.phase = .idle)
    (hrun : runCommands cs s = .ok t ∨ runCommands cs s = .error t) : Keeps s t := by
  induction cs generalizing s with
  | nil =>
    obtain rfl : s = t := by simpa [runCommands] using hrun
    exact Keeps.refl hidle
  | cons c cs ih =>
    obtain ⟨hc, hcs⟩ := List.forall_mem_cons.mp hcommands
    cases hfirst : runCommand c s with
    | ok u =>
      have hdone := runCommand_completed hc hfirst
      have hrest : runCommands (c :: cs) s = runCommands cs u := by rw [runCommands, hfirst]; rfl
      exact (Keeps.of_completed hdone).trans hdone.phase (ih hcs hdone.phase (hrest ▸ hrun))
    | error w =>
      have hrest : runCommands (c :: cs) s = .error w := by rw [runCommands, hfirst]; rfl
      obtain rfl : w = t := by simpa [hrest] using hrun
      exact Keeps.of_waiting (runCommand_waiting hfirst)

theorem exec_keeps {i : Instr} {s t : State} (hexec : exec i s = .next t) : Keeps s t := by
  obtain ⟨-, hcommands, -⟩ := expansion i s.host
  have hcommands : ∀ c ∈ expand s.host i, c.isCommand = true := fun c hc => (hcommands c hc).1
  obtain ⟨hidle, ⟨u, hok, rfl⟩ | herror⟩ := exec_eq_next_iff.mp hexec
  · obtain ⟨r, hresult⟩ := giveResult_eq s.host i u
    rw [hresult]
    exact (runCommands_keeps hcommands hidle (.inl hok)).withResult r
  · exact runCommands_keeps hcommands hidle (.inr herror)

/-- Settles O41: acceptance from IDLE has a next state whichever way the commands end. -/
theorem idleBlockRunsEverything : Obligations.IdleBlockRunsEverything := by
  unfold Obligations.IdleBlockRunsEverything
  intro i s hidle hnone
  obtain ⟨t, hexec⟩ : ∃ t, exec i s = .next t := by
    rw [exec_eq_accept, State.accept, if_pos hidle]
    split <;> exact ⟨_, rfl⟩
  exact ⟨t, hexec, hnone ▸ (exec_keeps hexec).ends⟩

theorem step_word {s : State} {w : CmdWord} {i : Instr} {rest : List Input} (hinputs : s.inputs = .word w :: rest)
    (hdecode : decode w = .ok i) : step s = exec i { s with inputs := rest } := by
  simp only [step, fetch, hinputs, hdecode]

theorem step_op {s : State} {i : Instr} {rest : List Input} (hinputs : s.inputs = .op i :: rest)
    (hwf : i.wellFormed = true) : step s = exec i { s with inputs := rest } := by
  simp only [step, fetch, hinputs, hwf, if_true]

theorem step_reserved {s : State} {w : CmdWord} {rest : List Input} {r : Reject} (hinputs : s.inputs = .word w :: rest)
    (hdecode : decode w = .error r) : step s = .refused .reservedEncoding := by
  simp only [step, fetch, hinputs, hdecode]

theorem step_reset {s : State} {rest : List Input} (hinputs : s.inputs = .reset :: rest) :
    step s = .next { s with inputs := rest }.applyReset := by
  simp only [step, fetch, hinputs]

theorem step_idle {s : State} (hinputs : s.inputs = []) (hidle : s.phase = .idle) : step s = .next s := by
  simp only [step, fetch, hinputs, hidle, if_true]

theorem step_stuck {s : State} (hinputs : s.inputs = []) (hbusy : s.phase ≠ .idle) : step s = .fault .awaitTransport := by
  simp only [step, fetch, hinputs, hbusy, if_false]

/-- Everything a step can do. -/
theorem step_cases {s t : State} (hstep : step s = .next t) :
    t = s ∨ (∃ rest, t = { s with inputs := rest }.applyReset) ∨ ∃ i rest, exec i { s with inputs := rest } = .next t := by
  match hinputs : s.inputs with
  | [] =>
    by_cases hidle : s.phase = .idle
    · exact .inl (Host.Outcome.next.inj (hstep.symm.trans (step_idle hinputs hidle)))
    · cases hstep.symm.trans (step_stuck hinputs hidle)
  | .reset :: rest => exact .inr (.inl ⟨rest, Host.Outcome.next.inj (hstep.symm.trans (step_reset hinputs))⟩)
  | .word w :: rest =>
    match hdecode : decode w with
    | .ok i => exact .inr (.inr ⟨i, rest, step_word hinputs hdecode ▸ hstep⟩)
    | .error r => cases hstep.symm.trans (step_reserved hinputs hdecode)
  | .op i :: rest =>
    cases hwf : i.wellFormed with
    | true => exact .inr (.inr ⟨i, rest, step_op hinputs hwf ▸ hstep⟩)
    | false => simp [step, fetch, hinputs, hwf] at hstep

/-- Settles O38: the two inputs that run an operation. -/
theorem stepRunsTheNextInput : Obligations.StepRunsTheNextInput := by
  unfold Obligations.StepRunsTheNextInput
  exact ⟨fun _ _ _ _ => step_word, fun _ _ _ => step_op⟩

/-- Settles O42: the two ways to have no input. -/
theorem stepWithoutInput : Obligations.StepWithoutInput := by
  unfold Obligations.StepWithoutInput
  exact fun s hinputs => ⟨step_idle hinputs, step_stuck hinputs⟩

/-- Settles O43: the reset input is taken whatever the phase. -/
theorem resetInputAbandonsTheCommand : Obligations.ResetInputAbandonsTheCommand := by
  unfold Obligations.ResetInputAbandonsTheCommand
  exact fun s rest hinputs => step_reset hinputs

/-- Settles O39: what the decoder accepts selects a row of the map. -/
theorem reservedWordsAreRefused : Obligations.ReservedWordsAreRefused := by
  unfold Obligations.ReservedWordsAreRefused
  intro s w rest hinputs hnone
  match hdecode : decode w with
  | .error r => exact step_reserved hinputs hdecode
  | .ok i =>
    obtain ⟨r, hrow, hname⟩ := row_of_decode hdecode
    cases (hnone r hrow).symm.trans (selects_of_decode hrow hdecode hname)

/-- Settles O48: neither waiting, nor reset, nor an operation writes them. -/
theorem stepKeepsTheConstants : Obligations.StepKeepsTheConstants := by
  unfold Obligations.StepKeepsTheConstants
  intro s t hstep
  obtain rfl | ⟨rest, rfl⟩ | ⟨i, rest, hexec⟩ := step_cases hstep
  · exact ⟨rfl, rfl, rfl⟩
  · exact ⟨rfl, rfl, rfl⟩
  · have hkeeps := exec_keeps hexec
    exact ⟨hkeeps.devAddr, hkeeps.busAddrByte, hkeeps.host⟩

/-- Settles O49: an operation appends its events, no more than its calls; the other steps append nothing. -/
theorem historyOnlyGrows : Obligations.HistoryOnlyGrows := by
  unfold Obligations.HistoryOnlyGrows
  intro s t hstep
  obtain rfl | ⟨rest, rfl⟩ | ⟨i, rest, hexec⟩ := step_cases hstep
  · simp
  · simp
  · have hkeeps := exec_keeps hexec
    obtain ⟨es, hhistory, hdraws⟩ := hkeeps.history
    refine ⟨⟨es, hhistory.symm⟩, hkeeps.completions, ?_⟩
    rw [hhistory, List.length_append, Nat.add_sub_cancel_left]
    exact Nat.le_sub_of_add_le' hdraws

/-- The invariant, its parts named. -/
theorem State.inv_iff (s : State) :
    s.inv = true ↔ ((s.phase = .idle ∧ s.awaiting = none) ∨ ∃ call, s.awaiting = some call ∧ s.phase.awaits call = true) ∧
      s.idx ≤ 4 ∧ s.bitcnt ≤ 8 ∧ s.oracle.wf = true := by
  unfold State.inv
  split <;> simp [*, and_assoc]

/-- Settles O46: the reset state evaluated. -/
theorem invariantAtReset : Obligations.InvariantAtReset := by
  unfold Obligations.InvariantAtReset
  decide

/-- Settles O44: the fields of the reset state. -/
theorem resetLeaves : Obligations.ResetLeaves := by
  unfold Obligations.ResetLeaves
  exact ⟨rfl, rfl, rfl, rfl, rfl, rfl, rfl⟩

/-- Settles O47: an operation starts in IDLE, where the invariant says that no call is waited in, and ends in one of its two ways. -/
theorem stepKeepsTheInvariant : Obligations.StepKeepsTheInvariant := by
  unfold Obligations.StepKeepsTheInvariant
  intro s t hinv hstep
  obtain ⟨hends, hidx, hbitcnt, horacle⟩ := s.inv_iff.mp hinv
  rw [State.inv_iff]
  obtain rfl | ⟨rest, rfl⟩ | ⟨i, rest, hexec⟩ := step_cases hstep
  · exact ⟨hends, hidx, hbitcnt, horacle⟩
  · exact ⟨.inl ⟨rfl, rfl⟩, (by decide : (0 : BitVec 3) ≤ 4), (by decide : (0 : BitVec 4) ≤ 8), horacle⟩
  · have hkeeps := exec_keeps hexec
    obtain ⟨hidle, -⟩ := exec_eq_next_iff.mp hexec
    have hnone : s.awaiting = none := by
      obtain ⟨-, hnone⟩ | ⟨call, -, hawaits⟩ := hends
      · exact hnone
      · have hidle : s.phase = .idle := hidle
        rw [hidle, Phase.idle_awaits] at hawaits
        cases hawaits
    exact ⟨hnone ▸ hkeeps.ends, hkeeps.idx hidx, hkeeps.bitcnt hbitcnt, hkeeps.oracle horacle⟩

end Sys2Proof.Machine
end

section
/-! PROOF. The two transactions under the deterministic stub, a named premise (95_test_vectors.md section 4, D30): the stub stores the word
of a frame that passes the receiver's check for its own address byte, and gives back the word of the register a read names. -/

namespace Sys2Proof.Machine

/-- The receiver's check tells its own address byte from any other (R117 (e) and (g)). -/
theorem crc8_writeFrame_eq_zero_iff (addrByte busAddrByte reg : Byte) (w : Word) :
    crc8 [addrByte, reg, lowByte w, highByte w, writeChecksum busAddrByte reg w] = 0 ↔ addrByte = busAddrByte := by
  have hown := crc8_append_crc8 [busAddrByte, reg, lowByte w, highByte w]
  constructor
  case mp =>
    intro hzero
    by_contra hne
    exact crc8_ne_of_changed_byte [] [reg, lowByte w, highByte w, writeChecksum busAddrByte reg w] hne (hzero.trans hown.symm)
  case mpr =>
    rintro rfl
    exact hown

theorem Stub.close_of_write (d : Stub) (busAddrByte reg : Byte) (w : Word) :
    (Stub.close { d with sent := [reg, lowByte w, highByte w, writeChecksum busAddrByte reg w] } .stop).mem =
      if d.addrByte = busAddrByte then d.mem.writeWord reg w else d.mem := by
  simp only [Stub.close, crc8_writeFrame_eq_zero_iff, assembleWord_highByte_lowByte]
  split <;> rfl

theorem exec_wrreg_stub {s : State} {d : Stub} (reg : Byte) (w : Word) (hidle : s.phase = .idle) (hstub : s.oracle = .stub d) :
    ∃ t d', exec (.wrreg reg w) s = .next t ∧ t.phase = .idle ∧ t.oracle = .stub d' ∧
      d'.mem = if d.addrByte = s.busAddrByte then d.mem.writeWord reg w else d.mem := by
  obtain ⟨b0, b1, b2, b3, b4, b5, hreplies⟩ : ∃ b0 b1 b2 b3 b4 b5,
      s.oracle.replies s.draws (writeCalls s.devAddr s.busAddrByte reg w) =
        [.returns false b0, .returns false b1, .returns false b2, .returns false b3, .returns false b4, .returns false b5] := by
    rw [hstub]
    exact ⟨_, _, _, _, _, _, rfl⟩
  have horacle : s.oracle.afterCalls s.draws (writeCalls s.devAddr s.busAddrByte reg w) =
      .stub (Stub.close { d with sent := [reg, lowByte w, highByte w, writeChecksum s.busAddrByte reg w] } .stop) := by
    rw [hstub]
    rfl
  exact ⟨_, _, exec_wrreg_of_returns hidle hreplies, rfl, horacle, Stub.close_of_write d s.busAddrByte reg w⟩

theorem exec_rdreg_stub {s : State} {d : Stub} (reg : Byte) (hidle : s.phase = .idle) (hstub : s.oracle = .stub d) :
    ∃ t d', exec (.rdreg reg) s = .next t ∧ t.phase = .idle ∧ t.oracle = .stub d' ∧ d'.mem = d.mem ∧
      t.res = resOfWord (d.mem.readWord reg) := by
  obtain ⟨b0, b1, b2, b3, hreplies⟩ : ∃ b0 b1 b2 b3,
      s.oracle.replies s.draws (readCalls s.devAddr reg) =
        [.returns false b0, .returns false b1, .returns false b2, .returns false b3,
          .returns false (lowByte (d.mem.readWord reg)), .returns false (highByte (d.mem.readWord reg))] := by
    rw [hstub]
    exact ⟨_, _, _, _, rfl⟩
  have horacle : s.oracle.afterCalls s.draws (readCalls s.devAddr reg) =
      .stub { d with ptr := reg, sent := [], reply := [] } := by
    rw [hstub]
    rfl
  exact ⟨_, _, exec_rdreg_of_returns hidle hreplies, rfl, horacle, rfl,
    congrArg resOfWord (assembleWord_highByte_lowByte (d.mem.readWord reg))⟩

theorem Memory.read_writeWord {m : Memory} (hwf : m.wf = true) (reg : Byte) (w : Word) (a : Nat) :
    Memory.read a (m.writeWord reg w) =
      if a = 2 * reg.toNat + 1 then highByte w else if a = 2 * reg.toNat then lowByte w else Memory.read a m := by
  have hreg := reg.isLt
  rw [Memory.writeWord, Memory.read_write (Memory.wf_write (by omega) hwf), Memory.read_write hwf]

/-- No two registers share a cell (R51). -/
theorem Memory.readWord_writeWord {m : Memory} (hwf : m.wf = true) (reg other : Byte) (w : Word) :
    (m.writeWord reg w).readWord other = if other = reg then w else m.readWord other := by
  simp only [Memory.readWord, Memory.read_writeWord hwf]
  by_cases heq : other = reg
  · subst heq
    rw [if_pos rfl, if_neg (by omega), if_pos rfl, if_pos rfl, assembleWord_highByte_lowByte]
  · have hnat : other.toNat ≠ reg.toNat := fun h => heq (BitVec.eq_of_toNat_eq h)
    rw [if_neg (by omega), if_neg (by omega), if_neg (by omega), if_neg (by omega), if_neg heq]

/-- Settles O52: the array after the write is the array with the word written, or the array before. -/
theorem stubWriteFrame : Obligations.StubWriteFrame := by
  unfold Obligations.StubWriteFrame
  intro s d reg w hidle hstub hwf
  obtain ⟨t, d', hexec, hdone, horacle, hmem⟩ := exec_wrreg_stub reg w hidle hstub
  refine ⟨t, d', hexec, hdone, horacle, ?canonical, fun hown => ⟨?stored, fun a hlow hhigh => ?frame⟩, fun hother => ?dropped⟩
  case canonical =>
    rw [hmem]
    split
    · exact Memory.wf_writeWord reg w hwf
    · exact hwf
  case stored => rw [hmem, if_pos hown, Memory.readWord_writeWord hwf, if_pos rfl]
  case frame => rw [hmem, if_pos hown, Memory.read_writeWord hwf, if_neg hhigh, if_neg hlow]
  case dropped => rw [hmem, if_neg hother]

/-- Settles O53: the second read is of the array the first one left. -/
theorem stubReadsAreIdempotent : Obligations.StubReadsAreIdempotent := by
  unfold Obligations.StubReadsAreIdempotent
  intro s d reg hidle hstub
  obtain ⟨t, d', hfirst, hdone, horacle, hmem, hres⟩ := exec_rdreg_stub reg hidle hstub
  obtain ⟨u, -, hsecond, -, -, -, hagain⟩ := exec_rdreg_stub reg hdone horacle
  exact ⟨t, u, d', hfirst, hsecond, horacle, hmem, hres, by rw [hagain, hres, hmem]⟩

/-- Settles O54: the read is of the array the write left. -/
theorem stubReadAfterWrite : Obligations.StubReadAfterWrite := by
  unfold Obligations.StubReadAfterWrite
  intro s d reg other w hidle hstub hown hwf
  obtain ⟨t, d', hwrite, hdone, horacle, hmem⟩ := exec_wrreg_stub reg w hidle hstub
  obtain ⟨u, -, hread, -, -, -, hres⟩ := exec_rdreg_stub other hdone horacle
  exact ⟨t, u, hwrite, hread, by rw [hres, hmem, if_pos hown, Memory.readWord_writeWord hwf]⟩

end Sys2Proof.Machine
end

section
/-! PROOF. Two runs of one operation, side by side (10_state.md R32, 60_exceptions.md R223): where every command keeps two states related,
so does every operation. -/

namespace Sys2Proof.Machine

/-- Two runs end the same way, completed in states that `done` relates or waiting in states that `wait` relates. -/
inductive Lockstep (done wait : State → State → Prop) : Except State State → Except State State → Prop
  | completed {s u : State} : done s u → Lockstep done wait (.ok s) (.ok u)
  | waiting {s u : State} : wait s u → Lockstep done wait (.error s) (.error u)

theorem Lockstep.bind {done done' wait : State → State → Prop} {x y : Except State State} {f g : State → Except State State}
    (hxy : Lockstep done wait x y) (hfg : ∀ s u, done s u → Lockstep done' wait (f s) (g u)) :
    Lockstep done' wait (x >>= f) (y >>= g) := by
  cases hxy with
  | completed hdone => exact hfg _ _ hdone
  | waiting hwait => exact .waiting hwait

/-- Where completed commands leave the states ready for the next, and all commands run in lockstep, so do one or more of them. -/
theorem runCommands_lockstep {ready done wait : State → State → Prop} (hready : ∀ s u, done s u → ready s u)
    (hcommand : ∀ c s u, c.isCommand = true → ready s u → Lockstep done wait (runCommand c s) (runCommand c u))
    {cs : List Instr} (hcs : ∀ c ∈ cs, c.isCommand = true) (hne : cs ≠ []) {s u : State} (hsu : ready s u) :
    Lockstep done wait (runCommands cs s) (runCommands cs u) := by
  induction cs generalizing s u with
  | nil => exact absurd rfl hne
  | cons c cs ih =>
    obtain ⟨hc, hcs⟩ := List.forall_mem_cons.mp hcs
    refine (hcommand c s u hc hsu).bind fun t v htv => ?_
    by_cases hlast : cs = []
    · subst hlast
      exact .completed htv
    · exact ih hcs hlast (hready t v htv)

/-- The whole operation: its commands in lockstep, then its result. -/
theorem exec_lockstep {ready done wait : State → State → Prop} (hready : ∀ s u, done s u → ready s u)
    (hcommand : ∀ c s u, c.isCommand = true → ready s u → Lockstep done wait (runCommand c s) (runCommand c u))
    (hresult : ∀ p i s u, done s u → done (giveResult p i s) (giveResult p i u))
    {i : Instr} {s u t v : State} (hhost : s.host = u.host) (hsu : ready s u) (hs : exec i s = .next t) (hu : exec i u = .next v) :
    done t v ∨ wait t v := by
  obtain ⟨hne, hcommands, -⟩ := expansion i s.host
  have hrun := runCommands_lockstep hready hcommand (fun c hc => (hcommands c hc).1) hne hsu
  obtain ⟨-, hs⟩ := exec_eq_next_iff.mp hs
  obtain ⟨-, hu⟩ := exec_eq_next_iff.mp hu
  rw [← hhost] at hu
  generalize runCommands (expand s.host i) s = x at hs hrun
  generalize runCommands (expand s.host i) u = y at hu hrun
  cases hrun with
  | completed hdone =>
    obtain ⟨t', ht, rfl⟩ | ht := hs
    · obtain ⟨v', hv, rfl⟩ | hv := hu
      · cases ht
        cases hv
        exact .inl (hresult _ i _ _ hdone)
      · cases hv
    · cases ht
  | waiting hwait =>
    obtain ⟨t', ht, -⟩ | ht := hs
    · cases ht
    · obtain ⟨v', hv, -⟩ | hv := hu
      · cases hv
      · cases ht
        cases hv
        exact .inr hwait

end Sys2Proof.Machine
end

section
/-! PROOF. No working register's value before a command matters to it (10_state.md R32): what a command adds to H and to the completions,
and what it does to the transport, are functions of its operands, the constants and the transport. -/

namespace Sys2Proof.Machine

/-- What is added from `s` to `t`: these events, these completions, and `n` calls, the transport having answered `calls`. -/
structure Adds (es : List Logged) (rs : List ResWord) (calls : List Call) (n : Nat) (s t : State) : Prop where
  devAddr : t.devAddr = s.devAddr
  busAddrByte : t.busAddrByte = s.busAddrByte
  host : t.host = s.host
  history : t.history = s.history ++ es
  completions : t.completions = s.completions ++ rs
  oracle : t.oracle = s.oracle.afterCalls s.draws calls
  draws : t.draws = s.draws + n

/-- Two states alike but for the working registers, which have added the same since `a` and `b`. -/
structure Alike (a b s u : State) : Prop where
  devAddr : s.devAddr = u.devAddr
  busAddrByte : s.busAddrByte = u.busAddrByte
  host : s.host = u.host
  oracle : s.oracle = u.oracle
  draws : s.draws = u.draws
  history : ∃ es, s.history = a.history ++ es ∧ u.history = b.history ++ es
  completions : ∃ rs, s.completions = a.completions ++ rs ∧ u.completions = b.completions ++ rs

theorem Alike.adds {a b s u t v : State} {es : List Logged} {rs : List ResWord} {calls : List Call} {n : Nat}
    (h : Alike a b s u) (hst : Adds es rs calls n s t) (huv : Adds es rs calls n u v) : Alike a b t v where
  devAddr := by rw [hst.devAddr, huv.devAddr, h.devAddr]
  busAddrByte := by rw [hst.busAddrByte, huv.busAddrByte, h.busAddrByte]
  host := by rw [hst.host, huv.host, h.host]
  oracle := by rw [hst.oracle, huv.oracle, h.oracle, h.draws]
  draws := by rw [hst.draws, huv.draws, h.draws]
  history := by
    obtain ⟨before, hs, hu⟩ := h.history
    exact ⟨before ++ es, by rw [hst.history, hs, List.append_assoc], by rw [huv.history, hu, List.append_assoc]⟩
  completions := by
    obtain ⟨before, hs, hu⟩ := h.completions
    exact ⟨before ++ rs, by rw [hst.completions, hs, List.append_assoc], by rw [huv.completions, hu, List.append_assoc]⟩

/-- Two completed runs: the same phase and the same result. -/
structure AlikeDone (a b s u : State) : Prop where
  alike : Alike a b s u
  phase : s.phase = u.phase
  res : s.res = u.res

/-- Two runs that wait. -/
structure AlikeWaiting (a b s u : State) : Prop where
  alike : Alike a b s u
  phase : s.phase = u.phase
  busy : s.phase ≠ .idle

theorem Adds.refl (s : State) : Adds [] [] [] 0 s s :=
  ⟨rfl, rfl, rfl, (List.append_nil _).symm, (List.append_nil _).symm, rfl, rfl⟩

/-- The checksum phase and LOAD write working registers alone. -/
theorem Adds.checksum {es : List Logged} {rs : List ResWord} {calls : List Call} {n : Nat} {s t : State}
    (h : Adds es rs calls n s t) : Adds es rs calls n s t.checksum := by
  rw [State.checksum_eq]
  exact ⟨h.devAddr, h.busAddrByte, h.host, h.history, h.completions, h.oracle, h.draws⟩

theorem State.loadBytes_adds (s : State) (b0 b1 b2 b3 : Byte) : Adds [] [] [] 0 s (s.loadBytes b0 b1 b2 b3) :=
  ⟨rfl, rfl, rfl, (Adds.refl s).history, (Adds.refl s).completions, rfl, rfl⟩

theorem State.loadWrite_adds (s : State) (reg : Byte) (w : Word) : Adds [] [] [] 0 s (s.loadWrite reg w) :=
  ⟨rfl, rfl, rfl, (Adds.refl s).history, (Adds.refl s).completions, rfl, rfl⟩

theorem State.loadReply_adds (s : State) (lo hi : Byte) : Adds [] [] [] 0 s (s.loadReply lo hi) :=
  ⟨rfl, rfl, rfl, (Adds.refl s).history, (Adds.refl s).completions, rfl, rfl⟩

theorem State.afterWrite_adds (s : State) (reg : Byte) (w : Word) (f0 f1 f2 f3 f4 f5 : Bool) :
    Adds [⟨.begin s.devAddr, f0⟩, ⟨.write reg, f1⟩, ⟨.write (lowByte w), f2⟩, ⟨.write (highByte w), f3⟩,
      ⟨.write (writeChecksum s.busAddrByte reg w), f4⟩, ⟨.finish .stop, f5⟩] [0]
      (writeCalls s.devAddr s.busAddrByte reg w) 6 s (s.afterWrite reg w f0 f1 f2 f3 f4 f5) :=
  ⟨rfl, rfl, rfl, rfl, rfl, rfl, rfl⟩

theorem State.afterRead_adds (s : State) (reg lo hi : Byte) (f0 f1 f2 f3 f4 f5 : Bool) :
    Adds [⟨.begin s.devAddr, f0⟩, ⟨.write reg, f1⟩, ⟨.finish .nostop, f2⟩, ⟨.request s.devAddr 2, f3⟩, ⟨.read lo, f4⟩,
      ⟨.read hi, f5⟩] [resOfWord (assembleWord hi lo)]
      (readCalls s.devAddr reg) 6 s (s.afterRead reg lo hi f0 f1 f2 f3 f4 f5) :=
  ⟨rfl, rfl, rfl, rfl, rfl, rfl, rfl⟩

theorem State.waitingWrite_adds (s : State) (reg : Byte) (w : Word) (rs : List (Bool × Byte)) :
    Adds (List.zipWith (fun c p => ⟨c.event p.2, p.1⟩) (writeCalls s.devAddr s.busAddrByte reg w) rs) []
      ((writeCalls s.devAddr s.busAddrByte reg w).take (rs.length + 1)) (rs.length + 1) s (s.waitingWrite reg w rs) :=
  ⟨rfl, rfl, rfl, rfl, (Adds.refl s).completions, rfl, rfl⟩

theorem State.waitingRead_adds (s : State) (reg : Byte) (rs : List (Bool × Byte)) :
    Adds (List.zipWith (fun c p => ⟨c.event p.2, p.1⟩) (readCalls s.devAddr reg) rs) []
      ((readCalls s.devAddr reg).take (rs.length + 1)) (rs.length + 1) s (s.waitingRead reg rs) :=
  ⟨rfl, rfl, rfl, rfl, (Adds.refl s).completions, rfl, rfl⟩

theorem AlikeDone.complete {a b s u : State} {r q : ResWord} (h : Alike a b s u) (hres : r = q) :
    AlikeDone a b (s.complete r) (u.complete q) := by
  subst hres
  exact ⟨h.adds (es := []) (rs := [r]) (calls := []) (n := 0) ⟨rfl, rfl, rfl, (Adds.refl s).history, rfl, rfl, rfl⟩
    ⟨rfl, rfl, rfl, (Adds.refl u).history, rfl, rfl, rfl⟩, rfl, rfl⟩

/-- Alike states have the same calls answered alike. -/
theorem Alike.replies_writeCalls {a b s u : State} (h : Alike a b s u) (reg : Byte) (w : Word) :
    s.oracle.replies s.draws (writeCalls s.devAddr s.busAddrByte reg w) =
      u.oracle.replies u.draws (writeCalls u.devAddr u.busAddrByte reg w) := by
  rw [h.oracle, h.draws, h.devAddr, h.busAddrByte]

theorem Alike.replies_readCalls {a b s u : State} (h : Alike a b s u) (reg : Byte) :
    s.oracle.replies s.draws (readCalls s.devAddr reg) = u.oracle.replies u.draws (readCalls u.devAddr reg) := by
  rw [h.oracle, h.draws, h.devAddr]

theorem State.writeRegister_alike {a b s u : State} (reg : Byte) (w : Word) (h : Alike a b s u) :
    Lockstep (AlikeDone a b) (AlikeWaiting a b) (s.writeRegister reg w) (u.writeRegister reg w) := by
  have hreplies := h.replies_writeCalls reg w
  obtain ⟨f0, f1, f2, f3, f4, f5, b0, b1, b2, b3, b4, b5, hreturns, hs⟩ | ⟨rs, -, hnever, hs⟩ := s.writeRegister_cases reg w
  · rw [hs, State.writeRegister_returns (hreplies ▸ hreturns)]
    have hu := u.afterWrite_adds reg w f0 f1 f2 f3 f4 f5
    rw [← h.devAddr, ← h.busAddrByte] at hu
    exact .completed ⟨h.adds (s.afterWrite_adds reg w f0 f1 f2 f3 f4 f5) hu, rfl, rfl⟩
  · rw [hs, State.writeRegister_waits (hreplies ▸ hnever)]
    have hu := u.waitingWrite_adds reg w rs
    rw [← h.devAddr, ← h.busAddrByte] at hu
    exact .waiting ⟨h.adds (s.waitingWrite_adds reg w rs) hu, rfl, s.waitingWrite_phase_ne_idle reg w rs⟩

theorem State.readRegister_alike {a b s u : State} (reg : Byte) (h : Alike a b s u) :
    Lockstep (AlikeDone a b) (AlikeWaiting a b) (s.readRegister reg) (u.readRegister reg) := by
  have hreplies := h.replies_readCalls reg
  obtain ⟨f0, f1, f2, f3, f4, f5, b0, b1, b2, b3, lo, hi, hreturns, hs⟩ | ⟨rs, -, hnever, hs⟩ := s.readRegister_cases reg
  · rw [hs, State.readRegister_returns (hreplies ▸ hreturns)]
    have hu := u.afterRead_adds reg lo hi f0 f1 f2 f3 f4 f5
    rw [← h.devAddr] at hu
    exact .completed ⟨h.adds (s.afterRead_adds reg lo hi f0 f1 f2 f3 f4 f5) hu, rfl, rfl⟩
  · rw [hs, State.readRegister_waits (hreplies ▸ hnever)]
    have hu := u.waitingRead_adds reg rs
    rw [← h.devAddr] at hu
    exact .waiting ⟨h.adds (s.waitingRead_adds reg rs) hu, rfl, s.waitingRead_phase_ne_idle reg rs⟩

theorem runCommand_alike {a b : State} (c : Instr) (s u : State) (hcommand : c.isCommand = true) (h : Alike a b s u) :
    Lockstep (AlikeDone a b) (AlikeWaiting a b) (runCommand c s) (runCommand c u) := by
  cases c
  case crc8 b0 b1 b2 b3 =>
    have hload := h.adds (s.loadBytes_adds b0 b1 b2 b3).checksum (u.loadBytes_adds b0 b1 b2 b3).checksum
    exact .completed (.complete hload (by simp only [State.checksum_eq]; rfl))
  case encw reg w =>
    have hload := h.adds (s.loadWrite_adds reg w).checksum (u.loadWrite_adds reg w).checksum
    exact .completed (.complete hload (by simp only [State.checksum_loadWrite_frame, h.busAddrByte]))
  case decr lo hi => exact .completed (.complete (h.adds (s.loadReply_adds lo hi) (u.loadReply_adds lo hi)) rfl)
  case wrreg reg w => exact State.writeRegister_alike reg w h
  case rdreg reg => exact State.readRegister_alike reg h
  all_goals cases hcommand

theorem Alike.start {s u : State} (hdev : s.devAddr = u.devAddr) (hbus : s.busAddrByte = u.busAddrByte) (hhost : s.host = u.host)
    (horacle : s.oracle = u.oracle) (hdraws : s.draws = u.draws) : Alike s u s u :=
  ⟨hdev, hbus, hhost, horacle, hdraws, ⟨[], (Adds.refl s).history, (Adds.refl u).history⟩,
    ⟨[], (Adds.refl s).completions, (Adds.refl u).completions⟩⟩

theorem AlikeDone.giveResult {a b s u : State} (p : HostParams) (i : Instr) (h : AlikeDone a b s u) :
    AlikeDone a b (giveResult p i s) (giveResult p i u) := by
  obtain ⟨r, hr⟩ := giveResult_eq p i s
  obtain ⟨q, hq⟩ := giveResult_eq p i u
  rw [hr, hq]
  obtain ⟨hdev, hbus, hhost, horacle, hdraws, hhistory, hcompletions⟩ := h.alike
  exact ⟨⟨hdev, hbus, hhost, horacle, hdraws, hhistory, hcompletions⟩, h.phase, h.res⟩

theorem Alike.same_additions {a b s u : State} (h : Alike a b s u) :
    s.history.drop a.history.length = u.history.drop b.history.length ∧
      s.completions.drop a.completions.length = u.completions.drop b.completions.length := by
  obtain ⟨es, hs, hu⟩ := h.history
  obtain ⟨rs, hs', hu'⟩ := h.completions
  rw [hs, hu, hs', hu']
  simp only [List.drop_left, and_self]

/-- Settles O50: two alike states run every operation in lockstep. -/
theorem commandsAreStateless : Obligations.CommandsAreStateless := by
  unfold Obligations.CommandsAreStateless
  intro i s1 s2 t1 t2 hdev hbus hhost horacle hdraws h1 h2
  obtain hdone | hwait := exec_lockstep (fun _ _ h => h.alike) runCommand_alike (fun p i _ _ h => h.giveResult p i) hhost
    (.start hdev hbus hhost horacle hdraws) h1 h2
  · obtain ⟨hevents, hcompletions⟩ := hdone.alike.same_additions
    exact ⟨hdone.phase, fun _ => hdone.res, hevents, hcompletions, hdone.alike.oracle, hdone.alike.draws⟩
  · obtain ⟨hevents, hcompletions⟩ := hwait.alike.same_additions
    exact ⟨hwait.phase, fun hidle => absurd hidle hwait.busy, hevents, hcompletions, hwait.alike.oracle, hwait.alike.draws⟩

end Sys2Proof.Machine
end

section
/-! PROOF. Failure flags change nothing but the flags in H and the transport's own state (60_exceptions.md R223): the block goes on to the
same next call with the same byte whatever was flagged. -/

namespace Sys2Proof.Machine

/-- Two transports under no law whose answers waiting are alike but for the flags. -/
def Oracle.AgreesWith (o q : Oracle) : Prop :=
  ∃ as bs, o = .free as ∧ q = .free bs ∧ List.Forall₂ (fun a b => a.agrees b = true) as bs

theorem Answer.agrees_returns {f : Bool} {b : Byte} {a : Answer} :
    (Answer.returns f b).agrees a = true ↔ ∃ f', a = .returns f' b := by
  cases a with
  | returns f' b' =>
    rw [Answer.agrees, beq_iff_eq]
    exact ⟨fun heq => ⟨f', heq ▸ rfl⟩, fun ⟨_, heq⟩ => (Answer.returns.inj heq).2.symm⟩
  | never => simp [Answer.agrees]

theorem Answer.agrees_never {a : Answer} : Answer.never.agrees a = true ↔ a = .never := by
  cases a <;> simp [Answer.agrees]

/-- Once the answers waiting are used up, which is for both at the same call, the free bytes are the same. -/
theorem Oracle.AgreesWith.answer {o q : Oracle} (h : o.AgreesWith q) (c : Call) (n : Nat) :
    (o.answer c n).1.agrees (q.answer c n).1 = true ∧ (o.answer c n).2.AgreesWith (q.answer c n).2 := by
  obtain ⟨as, bs, rfl, rfl, hall⟩ := h
  cases hall with
  | nil => exact ⟨Answer.agrees_returns.mpr ⟨_, rfl⟩, [], [], rfl, rfl, .nil⟩
  | cons hab hall => exact ⟨hab, _, _, rfl, rfl, hall⟩

theorem Oracle.AgreesWith.replies {o q : Oracle} (h : o.AgreesWith q) (n : Nat) (calls : List Call) :
    List.Forall₂ (fun a b => a.agrees b = true) (o.replies n calls) (q.replies n calls) := by
  induction calls generalizing o q n with
  | nil => exact .nil
  | cons c calls ih => exact .cons (h.answer c n).1 (ih (h.answer c n).2 (n + 1))

theorem Oracle.AgreesWith.afterCalls {o q : Oracle} (h : o.AgreesWith q) (n : Nat) (calls : List Call) :
    (o.afterCalls n calls).AgreesWith (q.afterCalls n calls) := by
  induction calls generalizing o q n with
  | nil => exact h
  | cons c calls ih => exact ih (h.answer c n).2 (n + 1)

/-- Answers alike but for the flags to a list of calls end in the same call that does not return, after the same bytes. -/
theorem agrees_returns_never {rs : List (Bool × Byte)} {as bs : List Answer}
    (hall : List.Forall₂ (fun a b => a.agrees b = true) as bs)
    (has : as.take (rs.length + 1) = rs.map (fun p => Answer.returns p.1 p.2) ++ [.never]) :
    ∃ qs : List (Bool × Byte), qs.map Prod.snd = rs.map Prod.snd ∧
      bs.take (qs.length + 1) = qs.map (fun p => Answer.returns p.1 p.2) ++ [.never] := by
  induction rs generalizing as bs with
  | nil =>
    cases hall with
    | nil => simp at has
    | cons hab hall =>
      obtain ⟨rfl, -⟩ := List.cons.inj has
      exact ⟨[], rfl, by rw [Answer.agrees_never.mp hab]; rfl⟩
  | cons r rs ih =>
    cases hall with
    | nil => simp at has
    | cons hab hall =>
      simp only [List.length_cons, List.take_succ_cons, List.map_cons, List.cons_append, List.cons.injEq] at has
      obtain ⟨rfl, has⟩ := has
      obtain ⟨f, rfl⟩ := Answer.agrees_returns.mp hab
      obtain ⟨qs, hbytes, hqs⟩ := ih hall has
      exact ⟨(f, r.2) :: qs, by rw [List.map_cons, List.map_cons, hbytes], congrArg (List.cons (Answer.returns f r.2)) hqs⟩

theorem agrees_six_returns {f0 f1 f2 f3 f4 f5 : Bool} {b0 b1 b2 b3 b4 b5 : Byte} {bs : List Answer}
    (hall : List.Forall₂ (fun a b => Answer.agrees a b = true)
      [.returns f0 b0, .returns f1 b1, .returns f2 b2, .returns f3 b3, .returns f4 b4, .returns f5 b5] bs) :
    ∃ g0 g1 g2 g3 g4 g5,
      bs = [.returns g0 b0, .returns g1 b1, .returns g2 b2, .returns g3 b3, .returns g4 b4, .returns g5 b5] := by
  match hall with
  | .cons h0 (.cons h1 (.cons h2 (.cons h3 (.cons h4 (.cons h5 .nil))))) =>
    obtain ⟨g0, rfl⟩ := Answer.agrees_returns.mp h0
    obtain ⟨g1, rfl⟩ := Answer.agrees_returns.mp h1
    obtain ⟨g2, rfl⟩ := Answer.agrees_returns.mp h2
    obtain ⟨g3, rfl⟩ := Answer.agrees_returns.mp h3
    obtain ⟨g4, rfl⟩ := Answer.agrees_returns.mp h4
    obtain ⟨g5, rfl⟩ := Answer.agrees_returns.mp h5
    exact ⟨g0, g1, g2, g3, g4, g5, rfl⟩

/-- Two states alike but for the flags in H, the transport's own state, and the flags the transport has still to answer. -/
structure FlagAlike (s u : State) : Prop where
  registers : u = { s with history := u.history, bus := u.bus, oracle := u.oracle }
  events : u.history.map (fun l => l.event) = s.history.map (fun l => l.event)
  oracle : s.oracle.AgreesWith u.oracle

/-- `u` written as `s` with the three fields in which they may differ. -/
theorem FlagAlike.exists_eq {s u : State} (h : FlagAlike s u) :
    ∃ history bus oracle, u = { s with history := history, bus := bus, oracle := oracle } ∧
      history.map (fun l => l.event) = s.history.map (fun l => l.event) ∧ s.oracle.AgreesWith oracle :=
  ⟨_, _, _, h.registers, h.events, h.oracle⟩

theorem zipWith_event_map_event (calls : List Call) {rs qs : List (Bool × Byte)} (hbytes : qs.map Prod.snd = rs.map Prod.snd) :
    (List.zipWith (fun c p => Logged.mk (c.event p.2) p.1) calls qs).map (fun l => l.event) =
      (List.zipWith (fun c p => Logged.mk (c.event p.2) p.1) calls rs).map (fun l => l.event) := by
  have hevents (ps : List (Bool × Byte)) :
      (List.zipWith (fun c p => Logged.mk (c.event p.2) p.1) calls ps).map (fun l => l.event) =
        List.zipWith (fun c b => Call.event b c) calls (ps.map Prod.snd) := by
    rw [List.map_zipWith, List.zipWith_map_right]
  rw [hevents, hevents, hbytes]

theorem State.writeRegister_flagAlike {s u : State} (reg : Byte) (w : Word) (h : FlagAlike s u) :
    Lockstep FlagAlike FlagAlike (s.writeRegister reg w) (u.writeRegister reg w) := by
  obtain ⟨history, bus, oracle, rfl, hevents, horacle⟩ := h.exists_eq
  have hall := horacle.replies s.draws (writeCalls s.devAddr s.busAddrByte reg w)
  obtain ⟨f0, f1, f2, f3, f4, f5, b0, b1, b2, b3, b4, b5, hreturns, hs⟩ | ⟨rs, -, hnever, hs⟩ := s.writeRegister_cases reg w
  · obtain ⟨g0, g1, g2, g3, g4, g5, hu⟩ := agrees_six_returns (hreturns ▸ hall)
    rw [hs, State.writeRegister_returns hu]
    refine .completed ⟨rfl, ?_, horacle.afterCalls _ _⟩
    simp only [State.afterWrite, List.map_append, hevents, List.map_cons, List.map_nil]
  · obtain ⟨qs, hbytes, hqs⟩ := agrees_returns_never hall hnever
    have hlength : qs.length = rs.length := by simpa using congrArg List.length hbytes
    rw [hs, State.writeRegister_waits hqs]
    refine .waiting ⟨?_, ?_, ?_⟩
    · simp only [State.waitingWrite, hlength]
    · simp only [State.waitingWrite, List.map_append, hevents, zipWith_event_map_event _ hbytes]
    · simp only [State.waitingWrite, hlength]
      exact horacle.afterCalls _ _

theorem State.readRegister_flagAlike {s u : State} (reg : Byte) (h : FlagAlike s u) :
    Lockstep FlagAlike FlagAlike (s.readRegister reg) (u.readRegister reg) := by
  obtain ⟨history, bus, oracle, rfl, hevents, horacle⟩ := h.exists_eq
  have hall := horacle.replies s.draws (readCalls s.devAddr reg)
  obtain ⟨f0, f1, f2, f3, f4, f5, b0, b1, b2, b3, lo, hi, hreturns, hs⟩ | ⟨rs, -, hnever, hs⟩ := s.readRegister_cases reg
  · obtain ⟨g0, g1, g2, g3, g4, g5, hu⟩ := agrees_six_returns (hreturns ▸ hall)
    rw [hs, State.readRegister_returns hu]
    refine .completed ⟨rfl, ?_, horacle.afterCalls _ _⟩
    simp only [State.afterRead, List.map_append, hevents, List.map_cons, List.map_nil]
  · obtain ⟨qs, hbytes, hqs⟩ := agrees_returns_never hall hnever
    have hlength : qs.length = rs.length := by simpa using congrArg List.length hbytes
    have hread : qs[4]?.map Prod.snd = rs[4]?.map Prod.snd := by
      rw [← List.getElem?_map, hbytes, List.getElem?_map]
    rw [hs, State.readRegister_waits hqs]
    refine .waiting ⟨?_, ?_, ?_⟩
    · simp only [State.waitingRead, hlength, hread]
    · simp only [State.waitingRead, List.map_append, hevents, zipWith_event_map_event _ hbytes]
    · simp only [State.waitingRead, hlength]
      exact horacle.afterCalls _ _

theorem runCommand_flagAlike (c : Instr) (s u : State) (hcommand : c.isCommand = true) (h : FlagAlike s u) :
    Lockstep FlagAlike FlagAlike (runCommand c s) (runCommand c u) := by
  cases c
  case crc8 | encw =>
    obtain ⟨history, bus, oracle, rfl, hevents, horacle⟩ := h.exists_eq
    rw [runCommand, runCommand, State.checksum_eq, State.checksum_eq]
    exact .completed ⟨rfl, hevents, horacle⟩
  case decr lo hi =>
    obtain ⟨history, bus, oracle, rfl, hevents, horacle⟩ := h.exists_eq
    exact .completed ⟨rfl, hevents, horacle⟩
  case wrreg reg w => exact State.writeRegister_flagAlike reg w h
  case rdreg reg => exact State.readRegister_flagAlike reg h
  all_goals cases hcommand

/-- The result is taken from RES. -/
theorem FlagAlike.giveResult {s u : State} (p : HostParams) (i : Instr) (h : FlagAlike s u) :
    FlagAlike (giveResult p i s) (giveResult p i u) := by
  obtain ⟨history, bus, oracle, rfl, hevents, horacle⟩ := h.exists_eq
  unfold Machine.giveResult
  split
  · exact ⟨rfl, hevents, horacle⟩
  · split
    · exact ⟨by cases ‹Instr› <;> rfl, hevents, horacle⟩
    · exact ⟨rfl, hevents, horacle⟩

theorem exec_flagAlike {i : Instr} {s u t v : State} (h : FlagAlike s u) (hs : exec i s = .next t) (hu : exec i u = .next v) :
    FlagAlike t v := by
  have hhost : s.host = u.host := by rw [h.registers]
  have hend := exec_lockstep (done := FlagAlike) (fun _ _ h => h) runCommand_flagAlike (fun p i _ _ h => h.giveResult p i)
    hhost h hs hu
  rwa [or_self] at hend

/-- Settles O51: the two runs are in lockstep, alike but for flags. -/
theorem flagsNeverMatter : Obligations.FlagsNeverMatter := by
  unfold Obligations.FlagsNeverMatter
  intro i s t u as bs hagree ht hu
  have hstart : FlagAlike { s with oracle := .free as } { s with oracle := .free bs } := ⟨rfl, rfl, as, bs, rfl, rfl, hagree⟩
  have hend := exec_flagAlike hstart ht hu
  exact ⟨hend.registers, hend.events⟩

end Sys2Proof.Machine
end
